-- ==== Sys2Proof/Word.lean ====
section
/-! DEFINITION. The word types of the block and their plainest arithmetic (00_scope.md rules R7, R8). -/

namespace Sys2Proof

/-- `u32` of rule R7: cursors, sequence counters, counts and estimates are unsigned 32-bit numbers. -/
abbrev U32 := BitVec 32

/-- One payload item (rules R9, R83). The width `PAYLOAD_W` is an open parameter of the spec (rule R5, decision D5) and
no rule ever looks inside an item, so an item is carried as the number its `W` bits spell and statements
say for which `W` it fits (`Item.fits`). DESIGN CHOICE, safe: notes/assumptions/3.md. -/
abbrev Item := Nat

/-- `add32(a, b) = (a + b) mod 2^32` (rule R8). -/
def add32 (a b : U32) : U32 := a + b

/-- `sub32(a, b) = (a - b) mod 2^32` (rule R8). -/
def sub32 (a b : U32) : U32 := a - b

/-- `min(a, b)`, the smaller of the two as naturals (rule R8). -/
def min32 (a b : U32) : U32 := if a.toNat ≤ b.toNat then a else b

/-- The item is a `w`-bit value (rule R83: "An item is any W-bit value; no value is reserved"). -/
def Item.fits (w : Nat) (x : Item) : Bool := x < 2 ^ w

end Sys2Proof
end

