-- ==== Sys2Proof/Config.lean ====
section
/-! DEFINITION. The implementation parameters of rule R5 and the one free value of the model. -/

namespace Sys2Proof

/-- `PUT_GUARD = 1`: slots held back by the single-put full test (rule R5, decision D13). -/
def Config.putGuard : Nat := 1

/-- `REQ_CAPACITY` of `State.reset`. The spec leaves it OPEN (rule R5, V5); every statement is about
`State.resetWith r n` for any `r`. DESIGN CHOICE, unsafe: notes/assumptions/1.md. -/
def Config.reqCapacity : U32 := 4#32

/-- `NPORTS` of `State.reset`. The spec leaves it OPEN (rule R5, V5); every statement is about any
number of ports. DESIGN CHOICE, unsafe: notes/assumptions/2.md. -/
def Config.nports : Nat := 2

/-- Which port has the next turn once the schedule in State is used up: rule R67, "which of these
happens next is not determined by the block" (U12: any value). A free value: it has no body.
DESIGN CHOICE, safe: notes/assumptions/5.md. -/
opaque Config.freeTurn : Nat → Nat

end Sys2Proof
end

