-- ==== Sys2Proof/Syntax.lean ====
section
/-! DEFINITION. The command set GQ-CMD version 1 (30_encoding.md rules R80 to R85) and what the host hands to a
port or to the block. -/

namespace Sys2Proof

/-- The seven commands of rule R85. The count of PUTB is `len(items)`, that of GETB the requested count
(rule R82); the other five have no operand. -/
inductive Instr where
  /-- PUT, rule R130 -/
  | put
  /-- PUTB, rule R131 -/
  | putb (arg : U32)
  /-- GET, rule R140 -/
  | get
  /-- GETB, rule R141 -/
  | getb (arg : U32)
  /-- OCC, rule R150 -/
  | occ
  /-- CAP, rule R151 -/
  | cap
  /-- STAT, rule R152 -/
  | stat
deriving DecidableEq, Repr

/-- What the host presents on a port for one issue: the command word (rule R80) and the payload-in lane
(rule R83). The lane is written without its trailing zero items: position `k` of the lane carries
`lane[k]`, or 0 past the end of the list (notes/assumptions/7.md, DESIGN CHOICE, safe). -/
structure Command where
  word : BitVec 64
  lane : List Item
deriving DecidableEq, Repr

/-- One entry of the environment's schedule (rules R67, R90, R182): a port's turn, or the host's reset
event with the `REQ_CAPACITY` it presents (the directive `RESET r` of rule R88). -/
inductive Turn where
  | port (i : Nat)
  | reset (req : U32)
deriving DecidableEq, Repr

/-- `OP` of a command (rule R85). -/
def Instr.opcode : Instr → BitVec 8
  | .put => 0x01#8
  | .putb _ => 0x02#8
  | .get => 0x03#8
  | .getb _ => 0x04#8
  | .occ => 0x05#8
  | .cap => 0x06#8
  | .stat => 0x07#8

/-- `ARG` of a command (rules R82, R85): zero where it "must be 0". -/
def Instr.arg : Instr → U32
  | .putb arg => arg
  | .getb arg => arg
  | .put => 0#32
  | .get => 0#32
  | .occ => 0#32
  | .cap => 0#32
  | .stat => 0#32

end Sys2Proof
end

