-- ==== Sys2Proof/WellFormed.lean ====
section
/-! DEFINITION. What the host may present. Every term of `Instr` is a legal command (its only operand is a full `u32`,
rule R82), so the checks are about what goes with it: the payload-in lane (rule R83) and the open
parameters (rule R5). -/

namespace Sys2Proof

/-- How many payload items a command demands (rule R83; the column "Items in" of rule R85). -/
def Instr.itemsDemanded : Instr → Nat
  | .put => 1
  | .putb arg => arg.toNat
  | .get => 0
  | .getb _ => 0
  | .occ => 0
  | .cap => 0
  | .stat => 0

/-- The lane lists no more items than the command demands (rule R83). -/
def laneCountOk (i : Instr) (lane : List Item) : Bool := lane.length ≤ i.itemsDemanded

/-- Every item of the lane is a `w`-bit value (rule R83). -/
def laneWidthOk (w : Nat) (lane : List Item) : Bool := lane.all (Item.fits w)

/-- `PAYLOAD_W >= 1` and `NPORTS >= 1` (rule R5). -/
def paramsOk (payloadW nports : Nat) : Bool := 1 ≤ payloadW && 1 ≤ nports

/-- A command with its lane as rule R185 lets the host present it. -/
def Instr.wellFormed (payloadW : Nat) (i : Instr) (lane : List Item) : Bool :=
  1 ≤ payloadW && laneCountOk i lane && laneWidthOk payloadW lane

end Sys2Proof
end

