-- ==== Sys2Proof/Decode.lean ====
section
/-! DEFINITION. The decoder of rule R86/R91, total on every 64-bit word, the encoder from the same map, and the opcode
map of rule R85 as a table of patterns and masks. -/

namespace Sys2Proof

/-- `OP = w[63:56]` (rule R80). -/
def wordOp (w : BitVec 64) : BitVec 8 := w.extractLsb' 56 8

/-- `RSV = w[55:32]` (rule R80). -/
def wordRsv (w : BitVec 64) : BitVec 24 := w.extractLsb' 32 24

/-- `ARG = w[31:0]` (rule R80). -/
def wordArg (w : BitVec 64) : U32 := w.extractLsb' 0 32

/-- The operation that a port has latched in `x[op]`, `x[arg]` (rules R33, R91): "its next step is the step
of that operation" (rule R34). No operation for an opcode outside 0x01 to 0x07. -/
def Instr.ofLatched (op : BitVec 8) (arg : U32) : Option Instr :=
  if op = 0x01#8 then some .put
  else if op = 0x02#8 then some (.putb arg)
  else if op = 0x03#8 then some .get
  else if op = 0x04#8 then some (.getb arg)
  else if op = 0x05#8 then some .occ
  else if op = 0x06#8 then some .cap
  else if op = 0x07#8 then some .stat
  else none

/-- The opcodes whose `ARG` must be zero (rule R86). -/
def argMustBeZero (op : BitVec 8) : Bool :=
  op = 0x01#8 || op = 0x03#8 || op = 0x05#8 || op = 0x06#8 || op = 0x07#8

/-- Decoding (rules R85, R86, R91): none is an illegal word. -/
def decode (w : BitVec 64) : Option Instr :=
  if wordRsv w ≠ 0#24 then none
  else if argMustBeZero (wordOp w) && wordArg w ≠ 0#32 then none
  else Instr.ofLatched (wordOp w) (wordArg w)

/-- Why a word is illegal, in the order of rule R86 (none for a legal word). -/
inductive IllegalWord where
  /-- `OP == 0x00` or `OP >= 0x08` -/
  | opcode (op : BitVec 8)
  /-- `RSV != 0` -/
  | reserved (rsv : BitVec 24)
  /-- `ARG != 0` where it must be zero -/
  | argument (op : BitVec 8) (arg : U32)
deriving DecidableEq, Repr

/-- The reason by name, for the log of a run; the block itself answers `ILL = 1` for all three (rule R86). -/
def illegalWord (w : BitVec 64) : Option IllegalWord :=
  if wordOp w = 0x00#8 || 0x08 ≤ (wordOp w).toNat then some (.opcode (wordOp w))
  else if wordRsv w ≠ 0#24 then some (.reserved (wordRsv w))
  else if argMustBeZero (wordOp w) && wordArg w ≠ 0#32 then some (.argument (wordOp w) (wordArg w))
  else none

/-- The word of a command (rules R80, R85): `OP ++ RSV ++ ARG`. -/
def encode (i : Instr) : BitVec 64 := i.opcode ++ 0#24 ++ i.arg

/-- One row of the opcode map: its `OP`, and the pattern and mask of its words (rule R85). -/
structure OpcodeRow where
  op : BitVec 8
  pattern : BitVec 64
  mask : BitVec 64
deriving DecidableEq, Repr

/-- The opcode map of rule R85, row by row. -/
def opcodeMap : List OpcodeRow :=
  [ ⟨0x01#8, 0x0100000000000000#64, 0xFFFFFFFFFFFFFFFF#64⟩,
    ⟨0x02#8, 0x0200000000000000#64, 0xFFFFFFFF00000000#64⟩,
    ⟨0x03#8, 0x0300000000000000#64, 0xFFFFFFFFFFFFFFFF#64⟩,
    ⟨0x04#8, 0x0400000000000000#64, 0xFFFFFFFF00000000#64⟩,
    ⟨0x05#8, 0x0500000000000000#64, 0xFFFFFFFFFFFFFFFF#64⟩,
    ⟨0x06#8, 0x0600000000000000#64, 0xFFFFFFFFFFFFFFFF#64⟩,
    ⟨0x07#8, 0x0700000000000000#64, 0xFFFFFFFFFFFFFFFF#64⟩ ]

/-- "a word `w` selects the row iff `w & mask == match`" (rule R85). -/
def OpcodeRow.selectedBy (r : OpcodeRow) (w : BitVec 64) : Bool := w &&& r.mask = r.pattern

/-- The decoder on the numbering of spec/opcode_table.json: the word whose low `nbits` bits are `w`, every bit
above them 0. A command is one 64-bit word moved whole (rules R51, R80), so there is no byte order to
apply; a number that needs more than 64 bits is no word. -/
def decodeTableWord (nbits w : Nat) : Option Instr :=
  if w % 2 ^ nbits < 2 ^ 64 then decode (BitVec.ofNat 64 (w % 2 ^ nbits)) else none

end Sys2Proof
end

