-- ==== Sys2Proof/Machine/Capacity.lean ====
section
/-! DEFINITION. Capacity normalisation and the values construction gives the shared state (40_capacity.md,
10_state.md rules R40, R42). -/

namespace Sys2Proof.Machine

/-- One line `v <- v | (v >> k)` of rule R101. -/
def smear (v : U32) (k : Nat) : U32 := v ||| (v >>> k)

/-- `norm(r)` by the algorithm of rule R101, with the first line that rule R102 demands. -/
def norm (r : U32) : U32 :=
  if r.toNat ≤ 1 then 1#32
  else add32 (smear (smear (smear (smear (smear (sub32 r 1#32) 1) 2) 4) 8) 16) 1#32

/-- `CFG_ERR` after reset: 1 iff `REQ_CAPACITY > 0x8000_0000` (rules R23, R103, R180). -/
def resetCfgErr (req : U32) : Bool := 0x80000000 < req.toNat

/-- `CAP` after reset (rules R40, R42, R180). -/
def resetCap (req : U32) : U32 := if resetCfgErr req then 0#32 else norm req

/-- `MASK` after reset (rules R42, R104, R180). -/
def resetMask (req : U32) : U32 := if resetCfgErr req then 0#32 else sub32 (resetCap req) 1#32

/-- `SLOT[i].PSEQ = SLOT[i].GSEQ` after reset: `i`, and `CAP` for slot 0 (rules R40, R116). -/
def initialSeq (cap : U32) (i : Nat) : U32 := if i = 0 then cap else BitVec.ofNat 32 i

end Sys2Proof.Machine
end

