-- ==== Sys2Proof/Machine/State.lean ====
section
/-! DEFINITION. The whole state of the machine (10_state.md rule R20) as plain data, the reasons a step can stop, and
reset (rules R40 to R42, R180). -/

namespace Sys2Proof.Machine

/-- The phase register `pc` of a port: exactly these ten values, symbolic (rule R34, V4). -/
inductive Phase where
  | idle | snapG | snapP | reserve | pollG | pollP | xfer | clear | publish | capq
deriving DecidableEq, Repr

/-- One slot (rules R28 to R31). `val` is `opt(PAYLOAD_W)` of rule R9. -/
structure Slot where
  pseq : U32
  gseq : U32
  val : Option Item
deriving DecidableEq, Repr

/-- The response registers of a port (rule R35). -/
structure Rsp where
  rv : Bool
  ok : Bool
  ill : Bool
  cnt : U32
  occ : U32
  out : List Item
  q : List U32
deriving DecidableEq, Repr

/-- One port: its phase (rule R34), its local registers (rule R33), its item buffers (rule R37), its
response registers (rule R35), and, as the model's own field, the commands the host still has to
present on it (notes/assumptions/6.md). -/
structure Port where
  pc : Phase
  op : BitVec 8
  arg : U32
  gs : U32
  ps : U32
  occ : U32
  n : U32
  k : U32
  pos : U32
  sg : U32
  sp : U32
  inItems : List Item
  outItems : List Item
  rsp : Rsp
  cmds : List Command
deriving DecidableEq, Repr

/-- The state of the machine (rule R20). `slots` lists the slots that differ from their reset contents, by
rising index (notes/assumptions/8.md). The model's own fields are `sched` (the turns the environment
still gives), `freeTurns` (how many turns came from the free value) and `active` (the port that
takes the step, rule R11): notes/assumptions/5.md. -/
structure State where
  cap : U32
  mask : U32
  cfgErr : Bool
  putc : U32
  getc : U32
  slots : List (Nat × Slot)
  ports : List Port
  sched : List Turn
  freeTurns : Nat
  active : Nat
deriving DecidableEq, Repr

/-- Why a step can have no result. The block itself never faults (rule R160); each reason is a state no run
from reset reaches under the proviso of rule R44. -/
inductive Fault where
  /-- Raised by a consumer's XFER step that reads `VAL = none` (rule R124, U6: the spec asks for a fault).
  Safe: the machine stops where the source defines nothing. -/
  | emptySlotRead (pos : U32)
  /-- Raised by a step of a port whose phase and latched opcode name no step label (rules R14, R34).
  Safe: the port is stuck, no rule gives it a step. -/
  | noEnabledStep (pc : Phase) (op : BitVec 8)
  /-- Raised by a step that reaches a slot index outside `0 .. CAP-1` (rules R28, R52). Safe: there is no
  such slot. -/
  | noSuchSlot (i : Nat)
deriving DecidableEq, Repr

/-- Why a step is refused. -/
inductive Refusal where
  /-- Raised by `exec` for an instruction with no meaning yet (none is left). Safe. -/
  | notModelled (mnemonic : String)
  /-- Raised by a turn of a port number outside `0 .. NPORTS-1` (rule R172): no such agent exists. Safe. -/
  | noSuchPort (i : Nat)
deriving DecidableEq, Repr

/-- One outcome of a step of this machine. -/
abbrev Result := Host.Outcome State Fault Refusal

/-- A slot right after reset (rules R40, R116); also what a slot that `State.slots` does not list holds. -/
def Slot.initial (cap : U32) (i : Nat) : Slot := ⟨initialSeq cap i, initialSeq cap i, none⟩

/-- The response registers after reset: `RV = 0` (rule R41). The others are unspecified there and 0 or
empty here: DESIGN CHOICE, unsafe, notes/assumptions/4.md. -/
def Rsp.reset : Rsp := ⟨false, false, false, 0#32, 0#32, [], []⟩

/-- A port after reset: `pc = IDLE`, `RSP.RV = 0` (rule R41). The other registers are unspecified there and 0
or empty here: DESIGN CHOICE, unsafe, notes/assumptions/4.md. -/
def Port.reset : Port :=
  { pc := .idle, op := 0#8, arg := 0#32, gs := 0#32, ps := 0#32, occ := 0#32, n := 0#32, k := 0#32,
    pos := 0#32, sg := 0#32, sp := 0#32, inItems := [], outItems := [], rsp := Rsp.reset, cmds := [] }

/-- The state right after a reset event with this `REQ_CAPACITY` on a block of `nports` ports, nothing
presented and nothing scheduled (rules R40 to R42, R180). -/
def State.resetWith (req : U32) (nports : Nat) : State :=
  { cap := resetCap req, mask := resetMask req, cfgErr := resetCfgErr req, putc := 0#32, getc := 0#32,
    slots := [], ports := List.replicate nports Port.reset, sched := [], freeTurns := 0, active := 0 }

/-- The machine right after reset, with the model's launch parameters (notes/assumptions/1.md and 2.md). -/
def State.reset : State := State.resetWith Config.reqCapacity Config.nports

end Sys2Proof.Machine
end

