-- ==== Sys2Proof/Machine/Operands.lean ====
section
/-! DEFINITION. The operand forms of the block: the slot index of a position, the items of a lane, the occupancy
estimate, the counts of a batch, and the bit representation of a payload. -/

namespace Sys2Proof.Machine

/-- `idx(p) = p & MASK`, the only addressing mode of the machine (rules R52, R110). -/
def slotIndex (mask pos : U32) : Nat := (pos &&& mask).toNat

/-- `IN[k]`: a lane is written without its trailing zero items (notes/assumptions/7.md). -/
def itemAt (lane : List Item) (k : Nat) : Item := lane.getD k 0

/-- The items a port latches at issue: exactly the demanded number, from the lane of the command the host
presents (rules R83, R91). -/
def latchedItems (i : Instr) (cmds : List Command) : List Item :=
  match cmds with
  | [] => []
  | c :: _ => c.lane.take i.itemsDemanded

/-- `est(gs, ps) = min(sub32(ps, gs), CAP)` (rule R120). -/
def est (cap gs ps : U32) : U32 := min32 (sub32 ps gs) cap

/-- `occ >= CAP - PUT_GUARD`, the full test of PUT, as naturals (rule R130(a); notes/assumptions/15.md). -/
def putFull (cap occ : U32) : Bool := cap.toNat ≤ occ.toNat + Config.putGuard

/-- `min(x[arg], CAP - x[occ])`, the positions PUTB reserves (rule R131). -/
def putbCount (cap arg occ : U32) : U32 := min32 arg (sub32 cap occ)

/-- `min(x[arg], x[occ])`, the positions GETB reserves (rule R141). -/
def getbCount (arg occ : U32) : U32 := min32 arg occ

/-- `x[k] + 1 < x[n]`: the batch has a further item (rules R123, R124), as naturals
(notes/assumptions/15.md). -/
def moreItems (k n : U32) : Bool := k.toNat + 1 < n.toNat

/-- The bits of a payload: `FULL ++ DATA`, `none` all zero (rule R9, decision D5). -/
def payloadBits (w : Nat) : Option Item → BitVec (1 + w)
  | none => 0#1 ++ 0#w
  | some d => 1#1 ++ BitVec.ofNat w d

end Sys2Proof.Machine
end

