-- ==== Sys2Proof/Machine/Flags.lean ====
section
/-! DEFINITION. The response flags (10_state.md rule R35, the only status flags of the machine), the 96-bit response
header (30_encoding.md rule R84), and the slot tests and slot states (41_slot_protocol.md). -/

namespace Sys2Proof.Machine

/-- The response registers that `respond(OK, CNT, OCC, OUT, Q)` leaves: `RV = 1`, `ILL = 0` (rules R13, R35,
and "Flags written" of rules R130 to R152). -/
def Rsp.answer (ok : Bool) (cnt occ : U32) (out : List Item) (q : List U32) : Rsp :=
  ⟨true, ok, false, cnt, occ, out, q⟩

/-- What FULL, NOFIT, EMPTY and CONTENDED all answer: `OK = 0`, `CNT = 0` and the estimate
(rules R161, R162). -/
def Rsp.rejected (occ : U32) : Rsp := Rsp.answer false 0#32 occ [] []

/-- The response of `raise Illegal(w)` (rule R163). -/
def Rsp.illegal : Rsp := ⟨true, false, true, 0#32, 0#32, [], []⟩

/-- The response header: `[95:66] = 0`, `[65] = ILL`, `[64] = OK`, `[63:32] = CNT`, `[31:0] = OCC`
(rule R84). -/
def Rsp.header (r : Rsp) : BitVec 96 :=
  0#30 ++ BitVec.ofBool r.ill ++ BitVec.ofBool r.ok ++ r.cnt ++ r.occ

/-- What the host may read of a port: header, item lane and query lane while `RV = 1`, nothing otherwise
(rules R84, R185, R197). -/
def Port.readResponse (p : Port) : Option (BitVec 96 × List Item × List U32) :=
  if p.rsp.rv then some (p.rsp.header, p.rsp.out, p.rsp.q) else none

/-- `ReadyW(i, p)`, the producer's slot test (rule R112). -/
def readyForWrite (sl : Slot) (pos : U32) : Bool := sl.pseq = pos && sl.gseq = pos

/-- `ReadyR(i, p)`, the consumer's slot test (rule R113). -/
def readyForRead (cap : U32) (sl : Slot) (pos : U32) : Bool :=
  sl.gseq = pos && sl.pseq = add32 pos cap

/-- `ok` of a producer's POLL_P step, on the two samples (rule R121). -/
def polledForWrite (pos sg sp : U32) : Bool := sp = pos && sg = sp

/-- `ok` of a consumer's POLL_P step, on the two samples (rule R121). -/
def polledForRead (cap pos sg sp : U32) : Bool := sg = pos && sp = add32 pos cap

/-- The four slot states of rule R117, each with its generation `g`, and the counters outside the protocol
(U8, decision D31). -/
inductive SlotState where
  | writable (g : U32)
  | filled (g : U32) (v : Item)
  | readable (g : U32) (v : Item)
  | drained (g : U32)
  | outside
deriving DecidableEq, Repr

/-- The slot state encoded in the slot's own three fields (rule R117). -/
def slotState (cap : U32) (sl : Slot) : SlotState :=
  if sub32 sl.pseq sl.gseq = 0#32 then
    match sl.val with
    | none => .writable sl.gseq
    | some v => .filled sl.gseq v
  else if sub32 sl.pseq sl.gseq = cap then
    match sl.val with
    | none => .drained sl.gseq
    | some v => .readable sl.gseq v
  else .outside

end Sys2Proof.Machine
end

