-- ==== Sys2Proof/Machine/Ops.lean ====
section
/-! DEFINITION. The named operations over shared state and port registers: the four access primitives
(20_memory.md rules R54 to R57), `respond` and `raise Illegal` (rules R13, R163), issue (rule R91), the
shared steps of 41_slot_protocol.md, the choice of the next turn (rule R67) and the reset event
(rule R180). A step of a port is written as a function of the state and of that port's record. -/

namespace Sys2Proof.Machine

/-! ### The slot array -/

/-- Slot `i` of the array: the entry listed for it, or its reset contents. -/
def readSlot (cap : U32) : List (Nat × Slot) → Nat → Slot
  | [], i => Slot.initial cap i
  | (j, v) :: rest, i => if i = j then v else readSlot cap rest i

/-- Put one entry before a list whose indices are larger, unless it is what an unlisted slot holds. -/
def consSlot (cap : U32) (i : Nat) (v : Slot) (rest : List (Nat × Slot)) : List (Nat × Slot) :=
  if v = Slot.initial cap i then rest else (i, v) :: rest

/-- Replace slot `i`, keeping the canonical form (notes/assumptions/8.md). -/
def writeSlot (cap : U32) : List (Nat × Slot) → Nat → Slot → List (Nat × Slot)
  | [], i, v => consSlot cap i v []
  | (j, u) :: rest, i, v =>
    if i < j then consSlot cap i v ((j, u) :: rest)
    else if i = j then consSlot cap i v rest
    else (j, u) :: writeSlot cap rest i v

/-- The canonical form: indices strictly rising from `lo`, below `CAP`, and no entry equal to what an unlisted
slot holds. -/
def slotsWfFrom (cap : U32) : Nat → List (Nat × Slot) → Bool
  | _, [] => true
  | lo, (j, v) :: rest =>
    lo ≤ j && j < cap.toNat && v ≠ Slot.initial cap j && slotsWfFrom cap (j + 1) rest

/-- The slot array is in its canonical form. -/
def Memory.wf (cap : U32) (m : List (Nat × Slot)) : Bool := slotsWfFrom cap 0 m

/-- `MemRead(SLOT[i], …)` (rules R54, R57): none when there is no slot `i` (rules R28, R52). -/
def State.slot? (s : State) (i : Nat) : Option Slot :=
  if i < s.cap.toNat then some (readSlot s.cap s.slots i) else none

/-- Replace slot `i` (rules R56, R57). -/
def State.setSlot (s : State) (i : Nat) (v : Slot) : State :=
  { s with slots := writeSlot s.cap s.slots i v }

/-- `MemWrite(SLOT[i].VAL, W+1, v)` (rule R57), on the slot's record. -/
def Slot.withVal (sl : Slot) (v : Option Item) : Slot := { sl with val := v }

/-- `MemAdd(SLOT[i].PSEQ, 32, d)` (rule R56), on the slot's record. -/
def Slot.addPseq (sl : Slot) (d : U32) : Slot := { sl with pseq := add32 sl.pseq d }

/-- `MemAdd(SLOT[i].GSEQ, 32, d)` (rule R56), on the slot's record. -/
def Slot.addGseq (sl : Slot) (d : U32) : Slot := { sl with gseq := add32 sl.gseq d }

/-! ### The cursors -/

/-- `MemCAS(PUTC, 32, e, v)` (rule R55): none when the comparison fails and nothing changes. -/
def casPutc (s : State) (e v : U32) : Option State :=
  if s.putc = e then some { s with putc := v } else none

/-- `MemCAS(GETC, 32, e, v)` (rule R55). -/
def casGetc (s : State) (e v : U32) : Option State :=
  if s.getc = e then some { s with getc := v } else none

/-! ### The port that takes the step -/

/-- The record of the port that takes the step (rule R11). -/
def State.activePort? (s : State) : Option Port := s.ports[s.active]?

/-- Write back the record of the port that takes the step. -/
def State.setPort (s : State) (p : Port) : State := { s with ports := s.ports.set s.active p }

/-- `respond(OK, CNT, OCC, OUT, Q)` (rules R13, R166): the response registers and `pc <- IDLE`. -/
def Port.respond (p : Port) (r : Rsp) : Port := { p with rsp := r, pc := .idle }

/-- `raise Illegal(w)` (rule R163): the response with `ILL = 1` and no other effect. The presented word is used
up (notes/assumptions/6.md). -/
def raiseIllegal (s : State) (p : Port) : State :=
  s.setPort { p with rsp := Rsp.illegal, cmds := p.cmds.tail }

/-- A port with no step for its phase and latched opcode (rules R14, R34). -/
def noStep (p : Port) : Result := .fault (.noEnabledStep p.pc p.op)

/-- A step that reaches the slot of `x[pos]` (rules R50, R52). -/
def withSlot (s : State) (p : Port) (f : Nat → Slot → Result) : Result :=
  match s.slot? (slotIndex s.mask p.pos) with
  | some sl => f (slotIndex s.mask p.pos) sl
  | none => .fault (.noSuchSlot (slotIndex s.mask p.pos))

/-! ### Issue (rule R91) -/

/-- The issue step of a legal command on an idle port (rule R91), refused while `CFG_ERR = 1`. -/
def issue (i : Instr) (s : State) (p : Port) : State :=
  if s.cfgErr then raiseIllegal s p
  else
    s.setPort
      { p with
        rsp := { p.rsp with rv := false }
        op := i.opcode
        arg := i.arg
        inItems := latchedItems i p.cmds
        outItems := []
        cmds := p.cmds.tail
        pc := if i.opcode = 0x06#8 then .capq else .snapG }

/-- One atomic step of operation `i` by the port that has the turn (rule R14): issue when it is idle, else the
step with the label of its phase, whose guard is that this operation is the one latched. -/
def runStep (i : Instr) (label : Phase → State → Port → Result) (s : State) : Result :=
  match s.activePort? with
  | none => .refused (.noSuchPort s.active)
  | some p =>
    if p.pc = .idle then .next (issue i s p)
    else if p.op = i.opcode then label p.pc s p
    else noStep p

/-! ### Snapshot (rule R119) -/

/-- `<op>.SNAP_G` (rule R119). -/
def snapG (s : State) (p : Port) : Result :=
  .next (s.setPort { p with gs := s.getc, pc := .snapP })

/-- The part of `<op>.SNAP_P` before the admission test (rules R119, R120). -/
def Port.snapshot (p : Port) (s : State) : Port :=
  { p with ps := s.putc, occ := est s.cap p.gs s.putc }

/-- Admission of `n` positions (rules R130, R131, R140, R141). -/
def goReserve (s : State) (p : Port) (n : U32) : Result :=
  .next (s.setPort { p with n := n, pc := .reserve })

/-- The answer of a rejected or contended operation (rules R161, R162). -/
def reject (s : State) (p : Port) : Result :=
  .next (s.setPort (p.respond (Rsp.rejected p.occ)))

/-! ### Reservation (rule R118) -/

/-- A port that has reserved the positions after `snapshot` (rules R111, R118). -/
def Port.reserved (p : Port) (snapshot : U32) : Port :=
  { p with k := 0#32, pos := add32 snapshot 1#32, pc := .pollG }

/-- `<op>.RESERVE` of a producer: one CAS on `PUTC` from `x[ps]` by `n` (rule R118). -/
def reservePut (n : U32) (s : State) (p : Port) : Result :=
  match casPutc s p.ps (add32 p.ps n) with
  | some s' => .next (s'.setPort (p.reserved p.ps))
  | none => reject s p

/-- `<op>.RESERVE` of a consumer: one CAS on `GETC` from `x[gs]` by `n` (rule R118). -/
def reserveGet (n : U32) (s : State) (p : Port) : Result :=
  match casGetc s p.gs (add32 p.gs n) with
  | some s' => .next (s'.setPort (p.reserved p.gs))
  | none => reject s p

/-! ### Handshakes (rules R121, R123, R124) -/

/-- `<op>.POLL_G` (rule R121). -/
def pollG (s : State) (p : Port) : Result :=
  withSlot s p fun _ sl => .next (s.setPort { p with sg := sl.gseq, pc := .pollP })

/-- `<op>.POLL_P` of a producer (rule R121). -/
def pollPForWrite (s : State) (p : Port) : Result :=
  withSlot s p fun _ sl =>
    .next (s.setPort { p with
      sp := sl.pseq, pc := if polledForWrite p.pos p.sg sl.pseq then .xfer else .pollG })

/-- `<op>.POLL_P` of a consumer (rule R121). -/
def pollPForRead (s : State) (p : Port) : Result :=
  withSlot s p fun _ sl =>
    .next (s.setPort { p with
      sp := sl.pseq, pc := if polledForRead s.cap p.pos p.sg sl.pseq then .xfer else .pollG })

/-- `<op>.XFER` of a producer: store item `k` of `IN` (rule R123). A `VAL` already full is overwritten (U7). -/
def xferWrite (k : Nat) (s : State) (p : Port) : Result :=
  withSlot s p fun i sl =>
    .next ((s.setSlot i (sl.withVal (some (itemAt p.inItems k)))).setPort { p with pc := .publish })

/-- `<op>.XFER` of a consumer: append `DATA` of the slot to `before` (rule R124); an empty slot faults (U6). -/
def xferRead (before : List Item) (s : State) (p : Port) : Result :=
  withSlot s p fun _ sl =>
    match sl.val with
    | some d => .next (s.setPort { p with outItems := before ++ [d], pc := .clear })
    | none => .fault (.emptySlotRead p.pos)

/-- `<op>.CLEAR` of a consumer (rule R124). -/
def clearSlot (s : State) (p : Port) : Result :=
  withSlot s p fun i sl =>
    .next ((s.setSlot i (sl.withVal none)).setPort { p with pc := .publish })

/-- `<op>.PUBLISH` of a producer: `MemAdd(SLOT[i].PSEQ, 32, CAP)` (rule R114), then the port becomes `p'`. -/
def publishPut (p' : Port) (s : State) (p : Port) : Result :=
  withSlot s p fun i sl => .next ((s.setSlot i (sl.addPseq s.cap)).setPort p')

/-- `<op>.PUBLISH` of a consumer: `MemAdd(SLOT[i].GSEQ, 32, CAP)` (rule R115), then the port becomes `p'`. -/
def publishGet (p' : Port) (s : State) (p : Port) : Result :=
  withSlot s p fun i sl => .next ((s.setSlot i (sl.addGseq s.cap)).setPort p')

/-- The next item of a batch (rules R123, R124). -/
def Port.nextItem (p : Port) : Port :=
  { p with k := add32 p.k 1#32, pos := add32 p.pos 1#32, pc := .pollG }

/-! ### The environment -/

/-- The next turn (rules R67, R182): the head of the schedule, or, when the schedule is used up, the port that
the free value names. -/
def nextTurn (s : State) : Turn :=
  match s.sched with
  | t :: _ => t
  | [] => .port (Config.freeTurn s.freeTurns % s.ports.length)

/-- The state once the next turn is taken from the schedule or from the free value. -/
def afterTurn (s : State) : State :=
  match s.sched with
  | _ :: rest => { s with sched := rest }
  | [] => { s with freeTurns := s.freeTurns + 1 }

/-- The reset event (rules R180 to R182): every piece of the block's state takes its reset value, operations in
progress are abandoned. What the host has still to present and to schedule is not the block's state
and stays (notes/assumptions/16.md). -/
def resetEvent (req : U32) (s : State) : State :=
  { State.resetWith req s.ports.length with
    ports := s.ports.map fun p => { Port.reset with cmds := p.cmds }
    sched := s.sched
    freeTurns := s.freeTurns
    active := s.active }

end Sys2Proof.Machine
end

