-- ==== Sys2Proof/Machine/GetFamily.lean ====
section
/-! DEFINITION. The get family: GET (43_get.md rule R140) and GETB (rule R141), one atomic step at a time. -/

namespace Sys2Proof.Machine

/-- `GET.SNAP_P` (rule R140): empty at `occ < 1`, else one position. -/
def getSnapP (s : State) (p : Port) : Result :=
  if (p.snapshot s).occ.toNat < 1 then reject s (p.snapshot s)
  else goReserve s (p.snapshot s) 1#32

/-- `GET.PUBLISH` (rule R140): release and answer `OK=1 CNT=1 OCC=occ-1 OUT=OUT`. -/
def getPublish (s : State) (p : Port) : Result :=
  publishGet (p.respond (Rsp.answer true 1#32 (sub32 p.occ 1#32) p.outItems [])) s p

/-- The step labels of GET (rules R34, R140). Its XFER sets `OUT` to the one item. -/
def getLabel : Phase → State → Port → Result
  | .snapG => snapG
  | .snapP => getSnapP
  | .reserve => reserveGet 1#32
  | .pollG => pollG
  | .pollP => pollPForRead
  | .xfer => xferRead []
  | .clear => clearSlot
  | .publish => getPublish
  | .idle => fun _ p => noStep p
  | .capq => fun _ p => noStep p

/-- GET (rule R140). -/
def execGet (s : State) : Result := runStep .get getLabel s

/-- `GETB.SNAP_P` (rule R141): `n = min(arg, occ)`, nothing to do when `n = 0`. -/
def getbSnapP (s : State) (p : Port) : Result :=
  if getbCount p.arg (p.snapshot s).occ = 0#32 then
    reject s { p.snapshot s with n := 0#32 }
  else goReserve s (p.snapshot s) (getbCount p.arg (p.snapshot s).occ)

/-- `GETB.PUBLISH` (rule R141): release, then the next item or the answer `OK=1 CNT=n OCC=occ-n OUT=OUT`. -/
def getbPublish (s : State) (p : Port) : Result :=
  publishGet
    (if moreItems p.k p.n then p.nextItem
     else p.respond (Rsp.answer true p.n (sub32 p.occ p.n) p.outItems [])) s p

/-- The step labels of GETB (rules R34, R141). -/
def getbLabel : Phase → State → Port → Result
  | .snapG => snapG
  | .snapP => getbSnapP
  | .reserve => fun s p => reserveGet p.n s p
  | .pollG => pollG
  | .pollP => pollPForRead
  | .xfer => fun s p => xferRead p.outItems s p
  | .clear => clearSlot
  | .publish => getbPublish
  | .idle => fun _ p => noStep p
  | .capq => fun _ p => noStep p

/-- GETB (rule R141). -/
def execGetb (arg : U32) (s : State) : Result := runStep (.getb arg) getbLabel s

end Sys2Proof.Machine
end

