-- ==== Sys2Proof/Machine/PutFamily.lean ====
section
/-! DEFINITION. The put family: PUT (42_put.md rule R130) and PUTB (rule R131), one atomic step at a time. -/

namespace Sys2Proof.Machine

/-- `PUT.SNAP_P` (rule R130): full at `occ >= CAP - PUT_GUARD`, else one position. -/
def putSnapP (s : State) (p : Port) : Result :=
  if putFull s.cap (p.snapshot s).occ then reject s (p.snapshot s)
  else goReserve s (p.snapshot s) 1#32

/-- `PUT.PUBLISH` (rule R130): publish and answer `OK=1 CNT=1 OCC=occ+1`. -/
def putPublish (s : State) (p : Port) : Result :=
  publishPut (p.respond (Rsp.answer true 1#32 (add32 p.occ 1#32) [] [])) s p

/-- The step labels of PUT (rules R34, R130). -/
def putLabel : Phase → State → Port → Result
  | .snapG => snapG
  | .snapP => putSnapP
  | .reserve => reservePut 1#32
  | .pollG => pollG
  | .pollP => pollPForWrite
  | .xfer => xferWrite 0
  | .publish => putPublish
  | .idle => fun _ p => noStep p
  | .clear => fun _ p => noStep p
  | .capq => fun _ p => noStep p

/-- PUT (rule R130). -/
def execPut (s : State) : Result := runStep .put putLabel s

/-- `PUTB.SNAP_P` (rule R131): `n = min(arg, CAP - occ)`, nothing to do when `n = 0`. -/
def putbSnapP (s : State) (p : Port) : Result :=
  if putbCount s.cap p.arg (p.snapshot s).occ = 0#32 then
    reject s { p.snapshot s with n := 0#32 }
  else goReserve s (p.snapshot s) (putbCount s.cap p.arg (p.snapshot s).occ)

/-- `PUTB.PUBLISH` (rule R131): publish, then the next item or the answer `OK=1 CNT=n OCC=occ+n`. -/
def putbPublish (s : State) (p : Port) : Result :=
  publishPut
    (if moreItems p.k p.n then p.nextItem
     else p.respond (Rsp.answer true p.n (add32 p.occ p.n) [] [])) s p

/-- The step labels of PUTB (rules R34, R131). -/
def putbLabel : Phase → State → Port → Result
  | .snapG => snapG
  | .snapP => putbSnapP
  | .reserve => fun s p => reservePut p.n s p
  | .pollG => pollG
  | .pollP => pollPForWrite
  | .xfer => fun s p => xferWrite p.k.toNat s p
  | .publish => putbPublish
  | .idle => fun _ p => noStep p
  | .clear => fun _ p => noStep p
  | .capq => fun _ p => noStep p

/-- PUTB (rule R131). -/
def execPutb (arg : U32) (s : State) : Result := runStep (.putb arg) putbLabel s

end Sys2Proof.Machine
end

