-- ==== Sys2Proof/Machine/QueryFamily.lean ====
section
/-! DEFINITION. The query family: OCC, CAP, STAT (44_query.md rules R150 to R152). They write no shared state. -/

namespace Sys2Proof.Machine

/-- `OCC.SNAP_P` (rule R150). -/
def occSnapP (s : State) (p : Port) : Result :=
  .next (s.setPort ((p.snapshot s).respond (Rsp.answer true 0#32 (p.snapshot s).occ [] [])))

/-- The step labels of OCC (rules R34, R150). -/
def occLabel : Phase → State → Port → Result
  | .snapG => snapG
  | .snapP => occSnapP
  | .idle => fun _ p => noStep p
  | .reserve => fun _ p => noStep p
  | .pollG => fun _ p => noStep p
  | .pollP => fun _ p => noStep p
  | .xfer => fun _ p => noStep p
  | .clear => fun _ p => noStep p
  | .publish => fun _ p => noStep p
  | .capq => fun _ p => noStep p

/-- OCC (rule R150). -/
def execOcc (s : State) : Result := runStep .occ occLabel s

/-- `CAP.CAPQ` (rule R151). -/
def capCapq (s : State) (p : Port) : Result :=
  .next (s.setPort (p.respond (Rsp.answer true 0#32 0#32 [] [s.cap])))

/-- The step labels of CAP (rules R34, R151). -/
def capLabel : Phase → State → Port → Result
  | .capq => capCapq
  | .idle => fun _ p => noStep p
  | .snapG => fun _ p => noStep p
  | .snapP => fun _ p => noStep p
  | .reserve => fun _ p => noStep p
  | .pollG => fun _ p => noStep p
  | .pollP => fun _ p => noStep p
  | .xfer => fun _ p => noStep p
  | .clear => fun _ p => noStep p
  | .publish => fun _ p => noStep p

/-- CAP (rule R151). -/
def execCap (s : State) : Result := runStep .cap capLabel s

/-- `STAT.SNAP_P` (rules R36, R152): the four words are `CAP`, `MASK`, `x[ps]`, `x[gs]`. -/
def statSnapP (s : State) (p : Port) : Result :=
  .next (s.setPort ((p.snapshot s).respond
    (Rsp.answer true 0#32 (p.snapshot s).occ []
      [s.cap, s.mask, (p.snapshot s).ps, (p.snapshot s).gs])))

/-- The step labels of STAT (rules R34, R152). -/
def statLabel : Phase → State → Port → Result
  | .snapG => snapG
  | .snapP => statSnapP
  | .idle => fun _ p => noStep p
  | .reserve => fun _ p => noStep p
  | .pollG => fun _ p => noStep p
  | .pollP => fun _ p => noStep p
  | .xfer => fun _ p => noStep p
  | .clear => fun _ p => noStep p
  | .publish => fun _ p => noStep p
  | .capq => fun _ p => noStep p

/-- STAT (rule R152). -/
def execStat (s : State) : Result := runStep .stat statLabel s

end Sys2Proof.Machine
end

