-- ==== Sys2Proof/Machine/Dispatch.lean ====
section
/-! DEFINITION. One arm per command: the step of that operation by the port that has the turn. -/

namespace Sys2Proof.Machine

def exec (i : Instr) (s : State) : Host.Outcome State Fault Refusal :=
  match i with
  | .put => Sys2Proof.Machine.execPut s
  | .putb arg => Sys2Proof.Machine.execPutb arg s
  | .get => Sys2Proof.Machine.execGet s
  | .getb arg => Sys2Proof.Machine.execGetb arg s
  | .occ => Sys2Proof.Machine.execOcc s
  | .cap => Sys2Proof.Machine.execCap s
  | .stat => Sys2Proof.Machine.execStat s

end Sys2Proof.Machine
end

