-- ==== Sys2Proof/Machine/Fetch.lean ====
section
/-! DEFINITION. Which operation the port that has the turn is to step: the word the host presents when the port is
idle (rule R91), the operation it has latched otherwise (rules R14, R34, R65). -/

namespace Sys2Proof.Machine

/-- What a port's turn finds. -/
inductive Fetched where
  /-- there is no port of that number (rule R172) -/
  | noPort
  /-- the port is idle and the host presents nothing: it waits (rule R185) -/
  | waiting
  /-- the port is idle and the word presented is illegal (rule R86) -/
  | illegalWord
  /-- the port is idle and a legal word is presented, or the port is inside this operation -/
  | command (i : Instr)
  /-- the port is not idle and its opcode register names no operation: no step label (rule R14) -/
  | stuck (p : Port)
deriving DecidableEq, Repr

/-- The word an idle port samples (rules R91, R92); a port that is not idle samples nothing and goes on with
what it latched (rule R65). -/
def fetch (s : State) : Fetched :=
  match s.activePort? with
  | none => .noPort
  | some p =>
    if p.pc = .idle then
      match p.cmds with
      | [] => .waiting
      | c :: _ =>
        match decode c.word with
        | some i => .command i
        | none => .illegalWord
    else
      match Instr.ofLatched p.op p.arg with
      | some i => .command i
      | none => .stuck p

/-- `raise Illegal(w)` by the port that has the turn (rules R91, R163). -/
def refuseWord (s : State) : State :=
  match s.activePort? with
  | none => s
  | some p => raiseIllegal s p

/-- Place a command word so that the very next turn issues it on port 0: port 0 is idle, the word is the next one
presented on it (every item of its lane 0), and the next turn is port 0's
(notes/assumptions/10.md, 20.md). -/
def placeWord (s : State) (w : BitVec 64) : State :=
  match s.ports with
  | [] => s
  | p :: rest =>
    { s with
      ports := { p with pc := .idle, cmds := ⟨w, []⟩ :: p.cmds } :: rest
      sched := .port 0 :: s.sched }

end Sys2Proof.Machine
end

