-- ==== Sys2Proof/Machine/Step.lean ====
section
/-! DEFINITION. One turn of the machine (rules R61, R67): a reset event, or one atomic step of one port. -/

namespace Sys2Proof.Machine

/-- The turn of the port `s.active`. -/
def stepPort (s : State) : Host.Outcome State Fault Refusal :=
  match fetch s with
  | .noPort => .refused (.noSuchPort s.active)
  | .waiting => .next s
  | .illegalWord => .next (refuseWord s)
  | .command i => exec i s
  | .stuck p => noStep p

/-- One step: take the next turn and do what it says. -/
def step (s : State) : Host.Outcome State Fault Refusal :=
  match nextTurn s with
  | .reset req => .next (resetEvent req (afterTurn s))
  | .port i => stepPort { afterTurn s with active := i }

/-- `s` with the command word `w` (its low `nbits` bits, as spec/opcode_table.json numbers them) where the next step
takes its command from. -/
def State.withFetchWord (s : State) (nbits w : Nat) : State :=
  placeWord s (BitVec.ofNat 64 (w % 2 ^ nbits))

end Sys2Proof.Machine
end

