-- ==== Sys2Proof/Machine/HostSide.lean ====
section
/-! DEFINITION. The host's notation: the commands of rule R88 and the retry loops of rule R89. They are the host's, not
the block's ("the block never retries"); the model of a loop is the next command it issues. -/

namespace Sys2Proof.Machine

/-- `PUT v` (rule R88). -/
def asmPut (v : Item) : Command := ⟨encode .put, [v]⟩

/-- `PUTB [v0, v1, ..]`: `ARG` is the number of items listed (rule R88). For 2^32 items or more the spec names no word; here
the number is taken modulo 2^32: DESIGN CHOICE, unsafe for such a line, notes/assumptions/25.md. -/
def asmPutb (vs : List Item) : Command := ⟨encode (.putb (BitVec.ofNat 32 vs.length)), vs⟩

/-- `GET` (rule R88). -/
def asmGet : Command := ⟨encode .get, []⟩

/-- `GETB n` (rule R88). -/
def asmGetb (n : U32) : Command := ⟨encode (.getb n), []⟩

/-- `OCC` (rule R88). -/
def asmOcc : Command := ⟨encode .occ, []⟩

/-- `CAP` (rule R88). -/
def asmCap : Command := ⟨encode .cap, []⟩

/-- `STAT` (rule R88). -/
def asmStat : Command := ⟨encode .stat, []⟩

/-- `PUT! v`: the next command after the last response, none once it had `OK == 1` (rule R89). -/
def retryPut (v : Item) (last : Option Rsp) : Option Command :=
  match last with
  | some r => if r.ok then none else some (asmPut v)
  | none => some (asmPut v)

/-- `GET!`: the next command after the last response, none once it had `OK == 1` (rule R89). -/
def retryGet (last : Option Rsp) : Option Command :=
  match last with
  | some r => if r.ok then none else some asmGet
  | none => some asmGet

/-- `PUTB! [v0 .. v(m-1)]`: the next command when the responses so far accepted `accepted` items in all, none
once `j >= m` (rule R89; 2^32 items or more left: notes/assumptions/25.md). -/
def retryPutb (vs : List Item) (accepted : Nat) : Option Command :=
  if accepted < vs.length then some (asmPutb (vs.drop accepted)) else none

/-- `GETB! m`: the next command when `got` are the items of the responses so far, none once there are `m`
(rule R89). -/
def retryGetb (m : U32) (got : List Item) : Option Command :=
  if got.length < m.toNat then some (asmGetb (sub32 m (BitVec.ofNat 32 got.length))) else none

end Sys2Proof.Machine
end

