-- ==== Sys2Proof/Safety.lean ====
section
/-! DEFINITION. What counts as a safe state and a safe step, in the terms the statements use: the final states of rule
R184, the successor table of rule R34, the slot cycle of rule R117, the invariants of rule R44 and the
proviso they stand under (rule R194). -/

namespace Sys2Proof.Safety

open Sys2Proof.Machine

/-- "A state is final iff every port has `pc == IDLE`" (rule R184). -/
def final (s : State) : Prop := ∀ p ∈ s.ports, p.pc = .idle

/-- The opcodes of the operations that reserve put positions (PUT, PUTB: rule R16, Producer). -/
def producerOp (op : BitVec 8) : Bool := op = 0x01#8 || op = 0x02#8

/-- The opcodes of the operations that reserve get positions (GET, GETB: rule R16, Consumer). -/
def consumerOp (op : BitVec 8) : Bool := op = 0x03#8 || op = 0x04#8

/-- The opcodes of the operations that take a snapshot (rule R119: every one except CAP). -/
def snapshotOp (op : BitVec 8) : Bool :=
  producerOp op || consumerOp op || op = 0x05#8 || op = 0x07#8

/-- There is a step label for this operation and phase, or the port is idle (rules R14, R34). -/
def labelExists (op : BitVec 8) : Phase → Bool
  | .idle => true
  | .snapG => snapshotOp op
  | .snapP => snapshotOp op
  | .reserve => producerOp op || consumerOp op
  | .pollG => producerOp op || consumerOp op
  | .pollP => producerOp op || consumerOp op
  | .xfer => producerOp op || consumerOp op
  | .clear => consumerOp op
  | .publish => producerOp op || consumerOp op
  | .capq => op = 0x06#8

/-- The successor relation of rule R34, `op` being the operation latched after the step. -/
def phaseSucc (op : BitVec 8) : Phase → Phase → Bool
  | .idle, .snapG => snapshotOp op
  | .idle, .capq => op = 0x06#8
  | .idle, .idle => true
  | .snapG, .snapP => true
  | .snapP, .reserve => producerOp op || consumerOp op
  | .snapP, .idle => true
  | .reserve, .pollG => true
  | .reserve, .idle => true
  | .pollG, .pollP => true
  | .pollP, .xfer => true
  | .pollP, .pollG => true
  | .xfer, .publish => producerOp op
  | .xfer, .clear => consumerOp op
  | .clear, .publish => true
  | .publish, .pollG => op = 0x02#8 || op = 0x04#8
  | .publish, .idle => true
  | .capq, .idle => true
  | _, _ => false

/-- The transitions of rule R117, "and no others" (or no change at all). -/
def slotMove (cap : U32) (a b : SlotState) : Prop :=
  a = b ∨
  (∃ g v, a = .writable g ∧ b = .filled g v) ∨
  (∃ g v, a = .filled g v ∧ b = .readable g v) ∨
  (∃ g v, a = .readable g v ∧ b = .drained g) ∨
  (∃ g, a = .drained g ∧ b = .writable (add32 g cap))

/-- `CAP` is a power of two, at most 2^31, and `MASK = CAP - 1` (rules R21, R22, R44(a)). -/
def capacityOk (cap mask : U32) : Prop :=
  (∃ j, j < 32 ∧ cap.toNat = 2 ^ j) ∧ mask = sub32 cap 1#32

/-- The configuration is one that a reset leaves (rules R40, R42): a legal capacity, or `CFG_ERR = 1` with
nothing configured, nothing stored and no operation in progress. -/
def configOk (s : State) : Prop :=
  (s.cfgErr = false ∧ capacityOk s.cap s.mask) ∨
  (s.cfgErr = true ∧ s.cap = 0#32 ∧ s.mask = 0#32 ∧ s.putc = 0#32 ∧ s.getc = 0#32 ∧ s.slots = [] ∧
    final s)

/-- Every port is at a phase its operation has (rules R14, R34). -/
def phasesOk (s : State) : Prop := ∀ p ∈ s.ports, labelExists p.op p.pc = true

/-- `SLOT[i].PSEQ & MASK == i` and `SLOT[i].GSEQ & MASK == i` for every slot (rule R44(c)). -/
def residuesOk (s : State) : Prop :=
  ∀ i, i < s.cap.toNat →
    slotIndex s.mask (readSlot s.cap s.slots i).pseq = i ∧
    slotIndex s.mask (readSlot s.cap s.slots i).gseq = i

/-- The port has reserved positions it has not finished: `RESERVE` is behind it (rules R34, R38). -/
def Port.holding (p : Port) : Bool :=
  p.pc = .pollG || p.pc = .pollP || p.pc = .xfer || p.pc = .clear || p.pc = .publish

/-- The count an operation is admitted with keeps the estimate and the capacity (rules R130(a), R131(g),
R140(a), R141(d)). -/
def admissionOk (cap : U32) (p : Port) : Prop :=
  (p.op = 0x01#8 → p.occ.toNat + 1 < cap.toNat) ∧
  (p.op = 0x02#8 → 1 ≤ p.n.toNat ∧ p.occ.toNat + p.n.toNat ≤ cap.toNat) ∧
  (p.op = 0x03#8 → 1 ≤ p.occ.toNat) ∧
  (p.op = 0x04#8 → 1 ≤ p.n.toNat ∧ p.n.toNat ≤ p.occ.toNat)

/-- No response that may be read (`RSP.RV = 1`: rule R197) reports an occupancy above `CAP`, and an admitted operation
will not either (rules R120, R176(b)). -/
def estimatesOk (s : State) : Prop :=
  ∀ p ∈ s.ports, (p.rsp.rv = true → p.rsp.occ.toNat ≤ s.cap.toNat) ∧
    (p.pc = .reserve ∨ Port.holding p = true → p.occ.toNat ≤ s.cap.toNat ∧ admissionOk s.cap p)

/-- The cursors and every snapshot in use, in the cyclic order of a 32-bit cursor: the occupancy is at most `CAP`
(rules R26, R44(b)); from a port's `x[gs]` one meets `GETC` before `PUTC`, and `x[ps]` before `PUTC`
(rule R120(a)); an admitted count fits the estimate. -/
structure CursorsOk (s : State) : Prop where
  occupancy : (sub32 s.putc s.getc).toNat ≤ s.cap.toNat
  snapshots : ∀ p ∈ s.ports, p.pc = .snapP ∨ p.pc = .reserve →
    (sub32 s.getc p.gs).toNat ≤ (sub32 s.putc p.gs).toNat
  admitted : ∀ p ∈ s.ports, p.pc = .reserve →
    (sub32 p.ps p.gs).toNat ≤ (sub32 s.putc p.gs).toNat ∧ p.occ = est s.cap p.gs p.ps ∧
      admissionOk s.cap p

/-- No port that has a snapshot in use is overtaken in this step: the put reservations made since its `x[gs]`,
those of this step included, stay below 2^32 (the proviso of rules R44 and R194; how it is read:
notes/assumptions/23.md). -/
def notOvertaken (s s' : State) : Prop :=
  ∀ p ∈ s.ports, p.pc = .snapP ∨ p.pc = .reserve →
    (sub32 s.putc p.gs).toNat + (sub32 s'.putc s.putc).toNat < 2 ^ 32

/-- Nor is a port that holds a position: the put reservations from its `x[pos]` on, those of this step included, stay
below 2^32 (the proviso of rules R44 and R194; how it is read: notes/assumptions/23.md). -/
def liveNotOvertaken (s s' : State) : Prop :=
  notOvertaken s s' ∧
    ∀ p ∈ s.ports, Port.holding p = true →
      (sub32 s.putc p.pos).toNat + (sub32 s'.putc s.putc).toNat < 2 ^ 32

/-- How many positions, from `x[pos]` on, the port still has to finish (rules R111, R123, R124). -/
def Port.remaining (p : Port) : Nat :=
  if p.op = 0x02#8 || p.op = 0x04#8 then p.n.toNat - p.k.toNat else 1

/-- The port has reserved put position `q` and not yet published it. -/
def holdsPut (p : Port) (q : U32) : Prop :=
  producerOp p.op = true ∧ Port.holding p = true ∧ (sub32 q p.pos).toNat < Port.remaining p

/-- How many items `OUT` holds at this phase of a consumer: one for each XFER behind it (rules R37, R124). -/
def Port.taken (p : Port) : Nat :=
  match p.pc with
  | .pollG | .pollP | .xfer => if p.op = 0x04#8 then p.k.toNat else 0
  | .clear | .publish => (if p.op = 0x04#8 then p.k.toNat else 0) + 1
  | .idle | .snapG | .snapP | .reserve | .capq => 0

/-! ### The protocol invariant (rule R44), across the wrap of the cursors

Cursors, positions and sequence counters are counts modulo 2^32 (rules R24, R25, R29, R30). The invariant is
stated over the counts themselves, of which the registers hold the low 32 bits. -/

/-- The 32-bit register that holds the count `n` (rules R7, R24). -/
def low (n : Nat) : U32 := BitVec.ofNat 32 n

/-- The counts that the registers hold modulo 2^32. They are no state of the machine: a statement says that there are
such counts. Port registers are given by port number, sequence counters by slot index. -/
structure Unwrapped where
  /-- put reservations since reset -/
  putc : Nat
  /-- get reservations since reset -/
  getc : Nat
  /-- `x[gs]`, `x[ps]` and `x[pos]` of a port -/
  gs : Nat → Nat
  ps : Nat → Nat
  pos : Nat → Nat
  /-- `GSEQ` and `PSEQ` of a slot -/
  gseq : Nat → Nat
  pseq : Nat → Nat

/-- Port `i`, whose record is `p`, has reserved the `q`-th put position and not yet published it. -/
def Unwrapped.holdsPut (u : Unwrapped) (i : Nat) (p : Port) (q : Nat) : Prop :=
  producerOp p.op = true ∧ Port.holding p = true ∧ u.pos i ≤ q ∧ q < u.pos i + Port.remaining p

/-- Port `i`, whose record is `p`, has reserved the `q`-th get position and not yet released it. -/
def Unwrapped.holdsGet (u : Unwrapped) (i : Nat) (p : Port) (q : Nat) : Prop :=
  consumerOp p.op = true ∧ Port.holding p = true ∧ u.pos i ≤ q ∧ q < u.pos i + Port.remaining p

/-- Some port has reserved the `q`-th put position and not yet published it. -/
def Unwrapped.heldPut (u : Unwrapped) (s : State) (q : Nat) : Prop :=
  ∃ i p, s.ports[i]? = some p ∧ u.holdsPut i p q

/-- Some port has reserved the `q`-th get position and not yet released it. -/
def Unwrapped.heldGet (u : Unwrapped) (s : State) (q : Nat) : Prop :=
  ∃ i p, s.ports[i]? = some p ∧ u.holdsGet i p q

/-- A producer has stored its item for the `g`-th put position and not yet published it (rules R32, R123). -/
def Unwrapped.fillsPut (u : Unwrapped) (s : State) (g : Nat) : Prop :=
  ∃ i p, s.ports[i]? = some p ∧ producerOp p.op = true ∧ p.pc = .publish ∧ u.pos i = g

/-- A consumer has cleared the slot of the `g`-th get position and not yet released it (rules R32, R124). -/
def Unwrapped.drainsGet (u : Unwrapped) (s : State) (g : Nat) : Prop :=
  ∃ i p, s.ports[i]? = some p ∧ consumerOp p.op = true ∧ p.pc = .publish ∧ u.pos i = g

/-- Slot `k` agrees with what the ports hold (rules R44(c), (d), (f), (g)): it carries positions of its own residue
class, `PSEQ` is `GSEQ` or `GSEQ + CAP`, the put positions from `PSEQ` on are exactly the held ones, the get
positions from `GSEQ` on are exactly the held ones, and `VAL` differs from what the counters say only in the
two windows of rule R32. -/
structure SlotAt (u : Unwrapped) (s : State) (k : Nat) : Prop where
  gseqLow : (readSlot s.cap s.slots k).gseq = low (u.gseq k)
  pseqLow : (readSlot s.cap s.slots k).pseq = low (u.pseq k)
  residue : u.gseq k % s.cap.toNat = k
  gap : u.pseq k = u.gseq k ∨ u.pseq k = u.gseq k + s.cap.toNat
  pseqBound : u.pseq k ≤ u.putc + s.cap.toNat
  gseqBound : u.gseq k ≤ u.getc + s.cap.toNat
  putCover : ∀ q, q % s.cap.toNat = k → u.pseq k ≤ q → q ≤ u.putc → u.heldPut s q
  putAhead : ∀ q, q % s.cap.toNat = k → u.heldPut s q → u.pseq k ≤ q
  getCover : ∀ q, q % s.cap.toNat = k → u.gseq k ≤ q → q ≤ u.getc → u.heldGet s q
  getAhead : ∀ q, q % s.cap.toNat = k → u.heldGet s q → u.gseq k ≤ q
  filled : u.pseq k = u.gseq k → (readSlot s.cap s.slots k).val ≠ none → u.fillsPut s (u.gseq k)
  drained : u.pseq k ≠ u.gseq k → (readSlot s.cap s.slots k).val = none → u.drainsGet s (u.gseq k)

/-- What a port inside a handshake for the position counted `x` knows of its slot `sl`, whose counters count `g` and
`w` (rules R44(e), (f), R121 to R124). -/
structure HandshakeAt (cap : U32) (p : Port) (x g w : Nat) (sl : Slot) : Prop where
  polled : p.pc = .pollP → p.sg = p.pos → g = x
  put : producerOp p.op = true → p.pc = .xfer ∨ p.pc = .publish → g = x ∧ w = x
  get : consumerOp p.op = true → p.pc = .xfer ∨ p.pc = .clear ∨ p.pc = .publish → g = x ∧ w = x + cap.toNat
  putEmpty : producerOp p.op = true → p.pc = .xfer → sl.val = none
  putFull : producerOp p.op = true → p.pc = .publish → sl.val ≠ none
  getFull : consumerOp p.op = true → p.pc = .xfer ∨ p.pc = .clear → sl.val ≠ none
  getEmpty : consumerOp p.op = true → p.pc = .publish → sl.val = none
  taken : consumerOp p.op = true → p.pc = .clear → sl.val = p.outItems.getLast?

/-- What the registers of port `i` hold. The counts it has in use are less than 2^32 behind the put cursor, which is
what makes its 32-bit tests exact (rule R122, the proviso of rule R44). -/
structure PortAt (u : Unwrapped) (s : State) (i : Nat) (p : Port) : Prop where
  phase : labelExists p.op p.pc = true
  snapshotG : p.pc = .snapP ∨ p.pc = .reserve →
    p.gs = low (u.gs i) ∧ u.gs i ≤ u.getc ∧ u.putc < u.gs i + 2 ^ 32
  snapshotP : p.pc = .reserve → p.ps = low (u.ps i) ∧ u.gs i ≤ u.ps i ∧ u.ps i ≤ u.putc
  admitted : p.pc = .reserve → p.occ = est s.cap p.gs p.ps ∧ admissionOk s.cap p
  position : Port.holding p = true → p.pos = low (u.pos i) ∧ u.putc < u.pos i + 2 ^ 32
  batch : Port.holding p = true → p.op = 0x02#8 ∨ p.op = 0x04#8 → p.k.toNat < p.n.toNat
  putReserved : Port.holding p = true → producerOp p.op = true → u.pos i + Port.remaining p ≤ u.putc + 1
  getReserved : Port.holding p = true → consumerOp p.op = true → u.pos i + Port.remaining p ≤ u.getc + 1
  items : consumerOp p.op = true → p.pc ≠ .idle → p.outItems.length = Port.taken p
  handshake : Port.holding p = true →
    HandshakeAt s.cap p (u.pos i) (u.gseq (u.pos i % s.cap.toNat)) (u.pseq (u.pos i % s.cap.toNat))
      (readSlot s.cap s.slots (u.pos i % s.cap.toNat))

/-- The protocol invariant of rule R44, for these counts. -/
structure ProtocolAt (u : Unwrapped) (s : State) : Prop where
  legal : s.cfgErr = false
  capacity : capacityOk s.cap s.mask
  memory : Memory.wf s.cap s.slots = true
  cursorsLow : s.putc = low u.putc ∧ s.getc = low u.getc
  occupancy : u.getc ≤ u.putc ∧ u.putc ≤ u.getc + s.cap.toNat
  ports : ∀ i p, s.ports[i]? = some p → PortAt u s i p
  putApart : ∀ i j p r, s.ports[i]? = some p → s.ports[j]? = some r → i ≠ j →
    ∀ q, u.holdsPut i p q → ¬ u.holdsPut j r q
  getApart : ∀ i j p r, s.ports[i]? = some p → s.ports[j]? = some r → i ≠ j →
    ∀ q, u.holdsGet i p q → ¬ u.holdsGet j r q
  slots : ∀ k, k < s.cap.toNat → SlotAt u s k

/-- The protocol invariant of rule R44. -/
def ProtocolOk (s : State) : Prop := ∃ u, ProtocolAt u s

/-- The protocol invariant of rule R44, after `m` put reservations since reset: with `m < 2^32` the runs that rule R194
calls "shorter than 2^32 reservations" (there are never more get than put reservations). -/
def ProtocolAfter (m : Nat) (s : State) : Prop := ∃ u, u.putc = m ∧ ProtocolAt u s

/-- `k` turns of the machine, stopping at the first fault or refusal. -/
def run : Nat → State → Result
  | 0, s => .next s
  | k + 1, s =>
    match step s with
    | .next t => run k t
    | .fault f => .fault f
    | .refused r => .refused r

/-- Every location of the shared space reads as before (rule R50). -/
def sharedSame (s t : State) : Prop :=
  t.cap = s.cap ∧ t.mask = s.mask ∧ t.cfgErr = s.cfgErr ∧ t.putc = s.putc ∧ t.getc = s.getc ∧
    ∀ j, readSlot t.cap t.slots j = readSlot s.cap s.slots j

/-- The environment's own fields and every port but the one that takes the step are as before
(rules R11, R33, R172). -/
def restSame (s t : State) : Prop :=
  t.sched = s.sched ∧ t.freeTurns = s.freeTurns ∧ t.active = s.active ∧
    t.ports.length = s.ports.length ∧ ∀ j, j ≠ s.active → t.ports[j]? = s.ports[j]?

/-- The position `k` places after the cursor value `c` (rule R111: the first owned position is `c + 1`). -/
def positionAfter (c : U32) (k : Nat) : U32 := add32 (add32 c 1#32) (BitVec.ofNat 32 k)

/-- The slot that a position maps to (rule R110), as it stands. -/
def slotOf (s : State) (pos : U32) : Slot := readSlot s.cap s.slots (slotIndex s.mask pos)

/-- The items that stand in the slots, by rising slot index (rule R31). -/
def storedItems (s : State) : List Item :=
  (List.range s.cap.toNat).filterMap fun k => (readSlot s.cap s.slots k).val

/-- The empty block at rest: as many gets reserved as puts, and every slot `WRITABLE` for the next position that
maps to it (rules R116, R117). -/
def quiet (s : State) : Prop :=
  s.putc = s.getc ∧
    ∀ k, k < s.cap.toNat → slotOf s (positionAfter s.putc k) =
      ⟨positionAfter s.putc k, positionAfter s.putc k, none⟩

/-- Every item anywhere in the state, and every item the host still has to present, is a `w`-bit value (rules R9,
R83). -/
def itemsFit (w : Nat) (s : State) : Prop :=
  (∀ j d, (readSlot s.cap s.slots j).val = some d → Item.fits w d = true) ∧
  ∀ p ∈ s.ports,
    laneWidthOk w p.inItems = true ∧ laneWidthOk w p.outItems = true ∧ laneWidthOk w p.rsp.out = true ∧
      ∀ c ∈ p.cmds, laneWidthOk w c.lane = true

end Sys2Proof.Safety
end

