-- ==== Sys2Proof/Certificates/Slice0/Obligations.lean ====
section
/-! DEFINITION. The statements for the provers, from the numbered rules of spec/. A statement about one command's steps
speaks of `exec`; a statement about runs speaks of `step`. -/

open Sys2Proof Sys2Proof.Machine Sys2Proof.Safety

/-! ### Encoding (30_encoding.md) -/

/-- Every command is read back from its own word (rules R80, R85). -/
def Obligations.DecodeOfEncode : Prop := ∀ i : Instr, decode (encode i) = some i

/-- A legal word is the word of the command it decodes to: no bit of it is dropped (rules R80, R85). -/
def Obligations.EncodeOfDecode : Prop := ∀ (w : BitVec 64) (i : Instr), decode w = some i → encode i = w

/-- A word is illegal exactly for the four reasons of rule R86, and the decoder names one of them. -/
def Obligations.IllegalWordsAreThoseOfR86 : Prop :=
  ∀ w : BitVec 64,
    (decode w = none ↔
      wordOp w = 0x00#8 ∨ 0x08 ≤ (wordOp w).toNat ∨ wordRsv w ≠ 0#24 ∨
        ((wordOp w = 0x01#8 ∨ wordOp w = 0x03#8 ∨ wordOp w = 0x05#8 ∨ wordOp w = 0x06#8 ∨ wordOp w = 0x07#8) ∧
          wordArg w ≠ 0#32)) ∧
    (decode w = none ↔ illegalWord w ≠ none)

/-- The decoder and the opcode map of rule R85 agree: a word is legal iff some row selects it, the row selected
is the decoded command's, and no word selects two rows. -/
def Obligations.OpcodeMapAgreesWithDecoder : Prop :=
  ∀ w : BitVec 64,
    (decode w ≠ none ↔ ∃ r ∈ opcodeMap, r.selectedBy w = true) ∧
    (∀ i r, decode w = some i → r ∈ opcodeMap → r.selectedBy w = true →
      r.op = i.opcode ∧ i.arg = (match i with | .putb _ => wordArg w | .getb _ => wordArg w | _ => 0#32)) ∧
    (∀ r ∈ opcodeMap, ∀ r' ∈ opcodeMap, r.selectedBy w = true → r'.selectedBy w = true → r = r')

/-- The decoding vectors EN1 to EN18 of 95_test_vectors.md. -/
def Obligations.DecodingVectors : Prop :=
  decode 0x0100000000000000#64 = some .put ∧ decode 0x0200000000000002#64 = some (.putb 2#32) ∧
  decode 0x0200000000000000#64 = some (.putb 0#32) ∧
  decode 0x02000000FFFFFFFF#64 = some (.putb 0xFFFFFFFF#32) ∧
  decode 0x0300000000000000#64 = some .get ∧ decode 0x0400000000000005#64 = some (.getb 5#32) ∧
  decode 0x0400000000000000#64 = some (.getb 0#32) ∧ decode 0x0500000000000000#64 = some .occ ∧
  decode 0x0600000000000000#64 = some .cap ∧ decode 0x0700000000000000#64 = some .stat ∧
  decode 0#64 = none ∧ decode 0x0800000000000000#64 = none ∧ decode 0xFF00000000000000#64 = none ∧
  decode 0x0100000100000000#64 = none ∧ decode 0x0200800000000002#64 = none ∧
  decode 0x0100000000000001#64 = none ∧ decode 0x0300000000000007#64 = none ∧
  decode 0x0600000000000001#64 = none

/-! ### One turn and the issue step -/

/-- A turn of port `i` runs the command: on an idle port the legal word presented, on a busy port the operation it
has latched (rules R14, R34, R91); an idle port with nothing presented waits (rule R185). `s₁` is the
state in which the port steps: the turn is taken from the schedule, or, when the schedule is used up,
it is the one the free value names (the model's own: notes/assumptions/5.md). -/
def Obligations.StepRunsTheCommand : Prop :=
  ∀ (s s₁ : State) (i : Nat) (p : Port),
    ((∃ ts, s.sched = .port i :: ts ∧ s₁ = { s with sched := ts, active := i }) ∨
      (s.sched = [] ∧ i = Config.freeTurn s.freeTurns % s.ports.length ∧
        s₁ = { s with freeTurns := s.freeTurns + 1, active := i })) →
    s.ports[i]? = some p →
    (∀ c cs j, p.pc = .idle → p.cmds = c :: cs → decode c.word = some j → step s = exec j s₁) ∧
    (p.pc = .idle → p.cmds = [] → step s = .next s₁) ∧
    (∀ j, p.pc ≠ .idle → Instr.ofLatched p.op p.arg = some j → step s = exec j s₁)

/-- The word that `State.withFetchWord` places is the command the very next step runs, on port 0, idle, with that
word presented and every item of its lane 0 (the model's own: notes/assumptions/10.md, 20.md). -/
def Obligations.FetchWordRunsNext : Prop :=
  ∀ (s : State) (p : Port) (ps : List Port) (w : Nat) (j : Instr),
    s.ports = p :: ps → decodeTableWord 64 w = some j →
    step (s.withFetchWord 64 w) =
      exec j { s with
        ports := { p with pc := .idle, cmds := ⟨BitVec.ofNat 64 (w % 2 ^ 64), []⟩ :: p.cmds } :: ps
        active := 0 }

/-- The issue step, whole (rule R91), for all seven commands. The fields `cmds` and `sched`, the words presented and the
turns given, are the model's own: notes/assumptions/5.md, 6.md. So are two clauses: what `IN` is when the lane is
longer than the number the command demands (V3 leaves it undefined: notes/assumptions/7.md), and that the response
registers other than `RSP.RV` keep their old answer (R197 and V2 leave them open: notes/assumptions/17.md). -/
def Obligations.IssueFollowsR91 : Prop :=
  ∀ (j : Instr) (s : State) (p : Port) (c : Command) (cs : List Command),
    s.ports[s.active]? = some p → p.pc = .idle → p.cmds = c :: cs → decode c.word = some j →
    (s.cfgErr = true →
      exec j s = .next (s.setPort { p with rsp := ⟨true, false, true, 0#32, 0#32, [], []⟩, cmds := cs })) ∧
    (s.cfgErr = false →
      exec j s = .next (s.setPort
        { p with
          rsp := { p.rsp with rv := false }
          op := wordOp c.word
          arg := wordArg c.word
          inItems := c.lane.take j.itemsDemanded
          outItems := []
          cmds := cs
          pc := if wordOp c.word = 0x06#8 then .capq else .snapG }))

/-- Every word presented to an idle port has exactly one outcome, an illegal answer or the command latched, and a
word presented to a busy port is not sampled (rule R92). The fields `cmds` and `sched`, the words
presented and the turns given, are the model's own: notes/assumptions/5.md, 6.md. -/
def Obligations.EveryPresentedWordHasOneOutcome : Prop :=
  ∀ (s : State) (i : Nat) (ts : List Turn) (p : Port) (c : Command) (cs : List Command),
    s.sched = .port i :: ts → s.ports[i]? = some p → p.cmds = c :: cs →
    (p.pc = .idle → ∃ t p', step s = .next t ∧ t.ports[i]? = some p' ∧ p'.cmds = cs ∧ sharedSame s t ∧
      (((decode c.word = none ∨ s.cfgErr = true) ∧ p'.pc = .idle ∧ p'.rsp = Rsp.illegal) ∨
        (decode c.word ≠ none ∧ s.cfgErr = false ∧ p'.pc ≠ .idle ∧ p'.rsp.rv = false ∧
          p'.op = wordOp c.word ∧ p'.arg = wordArg c.word))) ∧
    (p.pc ≠ .idle → ∀ t p', step s = .next t → t.ports[i]? = some p' → p'.cmds = p.cmds)

/-- `raise Illegal(w)` (rule R163): its effect, whole, and that nothing else raises it. The fields `cmds` and `sched`, the words
presented and the turns given, are the model's own: notes/assumptions/5.md, 6.md. -/
def Obligations.IllegalWordOnlyAnswers : Prop :=
  ∀ (s : State) (i : Nat) (ts : List Turn) (p : Port),
    s.sched = .port i :: ts → s.ports[i]? = some p →
    (∀ c cs, p.pc = .idle → p.cmds = c :: cs → decode c.word = none ∨ s.cfgErr = true →
      step s = .next { s with
        sched := ts
        active := i
        ports := s.ports.set i { p with rsp := ⟨true, false, true, 0#32, 0#32, [], []⟩, cmds := cs } }) ∧
    (∀ t p', step s = .next t → t.ports[i]? = some p' → p.rsp.ill = false → p'.rsp.ill = true →
      p.pc = .idle ∧ ∃ c cs, p.cmds = c :: cs ∧ (decode c.word = none ∨ s.cfgErr = true))

/-! ### Capacity and reset (40_capacity.md, 70_reset_and_hazards.md) -/

/-- `norm(r)` is the least power of two that is at least `r`, and 1 for 0 (rule R100). -/
def Obligations.NormIsLeastPowerOfTwo : Prop :=
  ∀ r : U32, r.toNat ≤ 0x80000000 →
    ∃ j, j ≤ 31 ∧ (norm r).toNat = 2 ^ j ∧ r.toNat ≤ 2 ^ j ∧ ∀ j', r.toNat ≤ 2 ^ j' → j ≤ j'

/-- Above 2^31 the algorithm returns 0, reset refuses the construction, and no command is accepted (rules R42,
R103). The fields `cmds` and `sched`, the words
presented and the turns given, are the model's own: notes/assumptions/5.md, 6.md. -/
def Obligations.OversizeRequestIsRefused : Prop :=
  ∀ (r : U32) (n : Nat), 0x80000000 < r.toNat →
    norm r = 0#32 ∧
    (State.resetWith r n).cfgErr = true ∧ (State.resetWith r n).cap = 0#32 ∧
    (State.resetWith r n).mask = 0#32 ∧ (State.resetWith r n).putc = 0#32 ∧
    (State.resetWith r n).getc = 0#32 ∧ (∀ i, (State.resetWith r n).slot? i = none) ∧
    (∀ p ∈ (State.resetWith r n).ports, p.pc = .idle ∧ p.rsp.rv = false) ∧
    ∀ (i : Nat) (c : Command), i < n →
      ∃ t p', step { State.resetWith r n with
          ports := (State.resetWith r n).ports.set i { Port.reset with cmds := [c] }, sched := [.port i] } =
          .next t ∧ t.ports[i]? = some p' ∧ p'.rsp = Rsp.illegal ∧ p'.pc = .idle

/-- The reset values of the shared state for a legal request (rules R40, R116), and of the ports' `pc` and `RSP.RV`
(rule R41). `CFG_ERR` (decision D7), the cursors' 0 (D8) and the slots' `i` (D9) are readings that rule R40 marks as the
spec's own; that there are `n` ports is the model's parameter: notes/assumptions/2.md. -/
def Obligations.ResetValuesOfR40 : Prop :=
  ∀ (r : U32) (n : Nat), r.toNat ≤ 0x80000000 →
    (State.resetWith r n).cap = norm r ∧
    (State.resetWith r n).mask = sub32 (norm r) 1#32 ∧
    (State.resetWith r n).cfgErr = false ∧
    (State.resetWith r n).putc = 0#32 ∧ (State.resetWith r n).getc = 0#32 ∧
    (State.resetWith r n).slot? 0 = some ⟨norm r, norm r, none⟩ ∧
    (∀ i, 1 ≤ i → i < (norm r).toNat →
      (State.resetWith r n).slot? i = some ⟨BitVec.ofNat 32 i, BitVec.ofNat 32 i, none⟩) ∧
    (State.resetWith r n).ports.length = n ∧
    (∀ p ∈ (State.resetWith r n).ports, p.pc = .idle ∧ p.rsp.rv = false)

/-- A reset event in any state: every location and every port's `pc` and `RSP.RV` take their reset values, whatever was
in progress (rule R182). That the host's commands and turns still to come stay is the model's own
(notes/assumptions/16.md). -/
def Obligations.ResetAbandonsEverything : Prop :=
  ∀ (s : State) (r : U32) (ts : List Turn), s.sched = .reset r :: ts →
    ∃ t, step s = .next t ∧ sharedSame (State.resetWith r s.ports.length) t ∧
      t.ports.length = s.ports.length ∧ t.sched = ts ∧
      ∀ (i : Nat) (p p' : Port), s.ports[i]? = some p → t.ports[i]? = some p' →
        p'.pc = .idle ∧ p'.rsp.rv = false ∧ p'.cmds = p.cmds

/-! ### The steps of each command, as the rules write them -/

/-- PUT (rule R130), every step after issue: what each phase answers. -/
def Obligations.PutFollowsItsSteps : Prop :=
  ∀ (s : State) (p : Port), s.ports[s.active]? = some p → p.op = 0x01#8 →
    (p.pc = .snapG → exec .put s = .next (s.setPort { p with gs := s.getc, pc := .snapP })) ∧
    (p.pc = .snapP → ∀ occ : U32, occ.toNat = min (s.putc - p.gs).toNat s.cap.toNat →
      (s.cap.toNat - 1 ≤ occ.toNat → exec .put s = .next (s.setPort
        { p with ps := s.putc, occ := occ, rsp := ⟨true, false, false, 0#32, occ, [], []⟩, pc := .idle })) ∧
      (occ.toNat < s.cap.toNat - 1 → exec .put s = .next (s.setPort
        { p with ps := s.putc, occ := occ, n := 1#32, pc := .reserve }))) ∧
    (p.pc = .reserve →
      (s.putc = p.ps → exec .put s = .next (State.setPort { s with putc := p.ps + 1#32 }
        { p with k := 0#32, pos := p.ps + 1#32, pc := .pollG })) ∧
      (s.putc ≠ p.ps → exec .put s = .next (s.setPort
        { p with rsp := ⟨true, false, false, 0#32, p.occ, [], []⟩, pc := .idle }))) ∧
    (∀ sl, s.slot? (slotIndex s.mask p.pos) = some sl →
      (p.pc = .pollG → exec .put s = .next (s.setPort { p with sg := sl.gseq, pc := .pollP })) ∧
      (p.pc = .pollP → exec .put s = .next (s.setPort
        { p with sp := sl.pseq, pc := if sl.pseq = p.pos ∧ p.sg = sl.pseq then .xfer else .pollG })) ∧
      (p.pc = .xfer → exec .put s = .next
        ((s.setSlot (slotIndex s.mask p.pos) { sl with val := some (p.inItems.getD 0 0) }).setPort
          { p with pc := .publish })) ∧
      (p.pc = .publish → exec .put s = .next
        ((s.setSlot (slotIndex s.mask p.pos) { sl with pseq := sl.pseq + s.cap }).setPort
          { p with rsp := ⟨true, true, false, 1#32, p.occ + 1#32, [], []⟩, pc := .idle })))

/-- PUTB (rule R131), every step after issue: what each phase answers. -/
def Obligations.PutbFollowsItsSteps : Prop :=
  ∀ (s : State) (p : Port) (a : U32), s.ports[s.active]? = some p → p.op = 0x02#8 →
    (p.pc = .snapG → exec (.putb a) s = .next (s.setPort { p with gs := s.getc, pc := .snapP })) ∧
    (p.pc = .snapP → ∀ occ n : U32, occ.toNat = min (s.putc - p.gs).toNat s.cap.toNat →
      n.toNat = min p.arg.toNat (s.cap.toNat - occ.toNat) →
      (n = 0#32 → exec (.putb a) s = .next (s.setPort
        { p with ps := s.putc, occ := occ, n := 0#32, rsp := ⟨true, false, false, 0#32, occ, [], []⟩
                 pc := .idle })) ∧
      (n ≠ 0#32 → exec (.putb a) s = .next (s.setPort
        { p with ps := s.putc, occ := occ, n := n, pc := .reserve }))) ∧
    (p.pc = .reserve →
      (s.putc = p.ps → exec (.putb a) s = .next (State.setPort { s with putc := p.ps + p.n }
        { p with k := 0#32, pos := p.ps + 1#32, pc := .pollG })) ∧
      (s.putc ≠ p.ps → exec (.putb a) s = .next (s.setPort
        { p with rsp := ⟨true, false, false, 0#32, p.occ, [], []⟩, pc := .idle }))) ∧
    (∀ sl, s.slot? (slotIndex s.mask p.pos) = some sl →
      (p.pc = .pollG → exec (.putb a) s = .next (s.setPort { p with sg := sl.gseq, pc := .pollP })) ∧
      (p.pc = .pollP → exec (.putb a) s = .next (s.setPort
        { p with sp := sl.pseq, pc := if sl.pseq = p.pos ∧ p.sg = sl.pseq then .xfer else .pollG })) ∧
      (p.pc = .xfer → exec (.putb a) s = .next
        ((s.setSlot (slotIndex s.mask p.pos) { sl with val := some (p.inItems.getD p.k.toNat 0) }).setPort
          { p with pc := .publish })) ∧
      (p.pc = .publish →
        (p.k.toNat + 1 < p.n.toNat → exec (.putb a) s = .next
          ((s.setSlot (slotIndex s.mask p.pos) { sl with pseq := sl.pseq + s.cap }).setPort
            { p with k := p.k + 1#32, pos := p.pos + 1#32, pc := .pollG })) ∧
        (p.n.toNat ≤ p.k.toNat + 1 → exec (.putb a) s = .next
          ((s.setSlot (slotIndex s.mask p.pos) { sl with pseq := sl.pseq + s.cap }).setPort
            { p with rsp := ⟨true, true, false, p.n, p.occ + p.n, [], []⟩, pc := .idle }))))

/-- GET (rule R140), every step after issue: what each phase answers. -/
def Obligations.GetFollowsItsSteps : Prop :=
  ∀ (s : State) (p : Port), s.ports[s.active]? = some p → p.op = 0x03#8 →
    (p.pc = .snapG → exec .get s = .next (s.setPort { p with gs := s.getc, pc := .snapP })) ∧
    (p.pc = .snapP → ∀ occ : U32, occ.toNat = min (s.putc - p.gs).toNat s.cap.toNat →
      (occ = 0#32 → exec .get s = .next (s.setPort
        { p with ps := s.putc, occ := occ, rsp := ⟨true, false, false, 0#32, occ, [], []⟩, pc := .idle })) ∧
      (occ ≠ 0#32 → exec .get s = .next (s.setPort
        { p with ps := s.putc, occ := occ, n := 1#32, pc := .reserve }))) ∧
    (p.pc = .reserve →
      (s.getc = p.gs → exec .get s = .next (State.setPort { s with getc := p.gs + 1#32 }
        { p with k := 0#32, pos := p.gs + 1#32, pc := .pollG })) ∧
      (s.getc ≠ p.gs → exec .get s = .next (s.setPort
        { p with rsp := ⟨true, false, false, 0#32, p.occ, [], []⟩, pc := .idle }))) ∧
    (∀ sl, s.slot? (slotIndex s.mask p.pos) = some sl →
      (p.pc = .pollG → exec .get s = .next (s.setPort { p with sg := sl.gseq, pc := .pollP })) ∧
      (p.pc = .pollP → exec .get s = .next (s.setPort
        { p with sp := sl.pseq
                 pc := if p.sg = p.pos ∧ sl.pseq = p.pos + s.cap then .xfer else .pollG })) ∧
      (p.pc = .xfer → ∀ d, sl.val = some d →
        exec .get s = .next (s.setPort { p with outItems := [d], pc := .clear })) ∧
      (p.pc = .clear → exec .get s = .next
        ((s.setSlot (slotIndex s.mask p.pos) { sl with val := none }).setPort { p with pc := .publish })) ∧
      (p.pc = .publish → exec .get s = .next
        ((s.setSlot (slotIndex s.mask p.pos) { sl with gseq := sl.gseq + s.cap }).setPort
          { p with rsp := ⟨true, true, false, 1#32, p.occ - 1#32, p.outItems, []⟩, pc := .idle })))

/-- GETB (rule R141), every step after issue: what each phase answers. -/
def Obligations.GetbFollowsItsSteps : Prop :=
  ∀ (s : State) (p : Port) (a : U32), s.ports[s.active]? = some p → p.op = 0x04#8 →
    (p.pc = .snapG → exec (.getb a) s = .next (s.setPort { p with gs := s.getc, pc := .snapP })) ∧
    (p.pc = .snapP → ∀ occ n : U32, occ.toNat = min (s.putc - p.gs).toNat s.cap.toNat →
      n.toNat = min p.arg.toNat occ.toNat →
      (n = 0#32 → exec (.getb a) s = .next (s.setPort
        { p with ps := s.putc, occ := occ, n := 0#32, rsp := ⟨true, false, false, 0#32, occ, [], []⟩
                 pc := .idle })) ∧
      (n ≠ 0#32 → exec (.getb a) s = .next (s.setPort
        { p with ps := s.putc, occ := occ, n := n, pc := .reserve }))) ∧
    (p.pc = .reserve →
      (s.getc = p.gs → exec (.getb a) s = .next (State.setPort { s with getc := p.gs + p.n }
        { p with k := 0#32, pos := p.gs + 1#32, pc := .pollG })) ∧
      (s.getc ≠ p.gs → exec (.getb a) s = .next (s.setPort
        { p with rsp := ⟨true, false, false, 0#32, p.occ, [], []⟩, pc := .idle }))) ∧
    (∀ sl, s.slot? (slotIndex s.mask p.pos) = some sl →
      (p.pc = .pollG → exec (.getb a) s = .next (s.setPort { p with sg := sl.gseq, pc := .pollP })) ∧
      (p.pc = .pollP → exec (.getb a) s = .next (s.setPort
        { p with sp := sl.pseq
                 pc := if p.sg = p.pos ∧ sl.pseq = p.pos + s.cap then .xfer else .pollG })) ∧
      (p.pc = .xfer → ∀ d, sl.val = some d →
        exec (.getb a) s = .next (s.setPort { p with outItems := p.outItems ++ [d], pc := .clear })) ∧
      (p.pc = .clear → exec (.getb a) s = .next
        ((s.setSlot (slotIndex s.mask p.pos) { sl with val := none }).setPort { p with pc := .publish })) ∧
      (p.pc = .publish →
        (p.k.toNat + 1 < p.n.toNat → exec (.getb a) s = .next
          ((s.setSlot (slotIndex s.mask p.pos) { sl with gseq := sl.gseq + s.cap }).setPort
            { p with k := p.k + 1#32, pos := p.pos + 1#32, pc := .pollG })) ∧
        (p.n.toNat ≤ p.k.toNat + 1 → exec (.getb a) s = .next
          ((s.setSlot (slotIndex s.mask p.pos) { sl with gseq := sl.gseq + s.cap }).setPort
            { p with rsp := ⟨true, true, false, p.n, p.occ - p.n, p.outItems, []⟩, pc := .idle }))))

/-- OCC (rule R150), every step after issue. -/
def Obligations.OccFollowsItsSteps : Prop :=
  ∀ (s : State) (p : Port), s.ports[s.active]? = some p → p.op = 0x05#8 →
    (p.pc = .snapG → exec .occ s = .next (s.setPort { p with gs := s.getc, pc := .snapP })) ∧
    (p.pc = .snapP → ∀ occ : U32, occ.toNat = min (s.putc - p.gs).toNat s.cap.toNat →
      exec .occ s = .next (s.setPort
        { p with ps := s.putc, occ := occ, rsp := ⟨true, true, false, 0#32, occ, [], []⟩, pc := .idle }))

/-- CAP (rule R151), its one step after issue. -/
def Obligations.CapFollowsItsStep : Prop :=
  ∀ (s : State) (p : Port), s.ports[s.active]? = some p → p.op = 0x06#8 → p.pc = .capq →
    exec .cap s = .next (s.setPort
      { p with rsp := ⟨true, true, false, 0#32, 0#32, [], [s.cap]⟩, pc := .idle })

/-- STAT (rule R152), every step after issue. -/
def Obligations.StatFollowsItsSteps : Prop :=
  ∀ (s : State) (p : Port), s.ports[s.active]? = some p → p.op = 0x07#8 →
    (p.pc = .snapG → exec .stat s = .next (s.setPort { p with gs := s.getc, pc := .snapP })) ∧
    (p.pc = .snapP → ∀ occ : U32, occ.toNat = min (s.putc - p.gs).toNat s.cap.toNat →
      exec .stat s = .next (s.setPort
        { p with ps := s.putc, occ := occ
                 rsp := ⟨true, true, false, 0#32, occ, [], [s.cap, s.mask, s.putc, p.gs]⟩, pc := .idle }))

/-- A consumer's XFER that finds the slot empty has no result (rule R124, U6), for both consumer commands. -/
def Obligations.EmptySlotReadFaults : Prop :=
  ∀ (s : State) (p : Port) (sl : Slot) (a : U32), s.ports[s.active]? = some p → p.pc = .xfer →
    s.slot? (slotIndex s.mask p.pos) = some sl → sl.val = none →
    (p.op = 0x03#8 → exec .get s = .fault (.emptySlotRead p.pos)) ∧
    (p.op = 0x04#8 → exec (.getb a) s = .fault (.emptySlotRead p.pos))

/-! ### Whole operations, one port running alone -/

/-- PUT to completion (rule R130): with the next slot ready and fewer than `CAP - 1` positions occupied, eight turns of
an idle port place the item, publish it and answer `OK=1 CNT=1 OCC=occ+1`; nothing else changes. The fields `cmds` and `sched`, the words
presented and the turns given, are the model's own: notes/assumptions/5.md, 6.md. -/
def Obligations.PutAloneCompletes : Prop :=
  ∀ (s : State) (i : Nat) (p : Port) (v : Item) (cs : List Command) (ts : List Turn),
    s.cfgErr = false → capacityOk s.cap s.mask → Memory.wf s.cap s.slots = true →
    s.ports[i]? = some p → p.pc = .idle → p.cmds = asmPut v :: cs →
    s.sched = List.replicate 8 (.port i) ++ ts →
    (sub32 s.putc s.getc).toNat + 1 < s.cap.toNat →
    readyForWrite (slotOf s (add32 s.putc 1#32)) (add32 s.putc 1#32) = true →
    ∃ t p', run 8 s = .next t ∧ t.ports[i]? = some p' ∧ p'.pc = .idle ∧ p'.cmds = cs ∧
      p'.rsp = ⟨true, true, false, 1#32, add32 (sub32 s.putc s.getc) 1#32, [], []⟩ ∧
      t.putc = add32 s.putc 1#32 ∧ t.getc = s.getc ∧ t.cap = s.cap ∧ t.mask = s.mask ∧
      t.cfgErr = false ∧ t.sched = ts ∧ (∀ j, j ≠ i → t.ports[j]? = s.ports[j]?) ∧
      slotOf t (add32 s.putc 1#32) = ⟨add32 (add32 s.putc 1#32) s.cap, add32 s.putc 1#32, some v⟩ ∧
      ∀ j, j ≠ slotIndex s.mask (add32 s.putc 1#32) →
        readSlot t.cap t.slots j = readSlot s.cap s.slots j

/-- GET to completion (rule R140): with the next slot READABLE and at least one position occupied, nine turns of an
idle port take the item, clear and release the slot and answer `OK=1 CNT=1 OCC=occ-1 OUT=[v]`;
nothing else changes. The fields `cmds` and `sched`, the words
presented and the turns given, are the model's own: notes/assumptions/5.md, 6.md. -/
def Obligations.GetAloneCompletes : Prop :=
  ∀ (s : State) (i : Nat) (p : Port) (v : Item) (cs : List Command) (ts : List Turn),
    s.cfgErr = false → capacityOk s.cap s.mask → Memory.wf s.cap s.slots = true →
    s.ports[i]? = some p → p.pc = .idle → p.cmds = asmGet :: cs →
    s.sched = List.replicate 9 (.port i) ++ ts →
    1 ≤ (sub32 s.putc s.getc).toNat → (sub32 s.putc s.getc).toNat ≤ s.cap.toNat →
    slotState s.cap (slotOf s (add32 s.getc 1#32)) = .readable (add32 s.getc 1#32) v →
    ∃ t p', run 9 s = .next t ∧ t.ports[i]? = some p' ∧ p'.pc = .idle ∧ p'.cmds = cs ∧
      p'.rsp = ⟨true, true, false, 1#32, sub32 (sub32 s.putc s.getc) 1#32, [v], []⟩ ∧
      t.getc = add32 s.getc 1#32 ∧ t.putc = s.putc ∧ t.cap = s.cap ∧ t.mask = s.mask ∧
      t.cfgErr = false ∧ t.sched = ts ∧ (∀ j, j ≠ i → t.ports[j]? = s.ports[j]?) ∧
      slotState t.cap (slotOf t (add32 s.getc 1#32)) = .writable (add32 (add32 s.getc 1#32) s.cap) ∧
      ∀ j, j ≠ slotIndex s.mask (add32 s.getc 1#32) →
        readSlot t.cap t.slots j = readSlot s.cap s.slots j

/-- PUTB to completion (rules R131, R176(d)): of the items offered the first `m = min(len, CAP - occ)` are accepted, item
`k` in position `PUTC + 1 + k`, in `4 + 4m` turns of an idle port, with the answer
`OK=1 CNT=m OCC=occ+m`; nothing else changes. The fields `cmds` and `sched`, the words
presented and the turns given, are the model's own: notes/assumptions/5.md, 6.md. -/
def Obligations.PutbAloneCompletes : Prop :=
  ∀ (s : State) (i : Nat) (p : Port) (vs : List Item) (m : Nat) (cs : List Command) (ts : List Turn),
    s.cfgErr = false → capacityOk s.cap s.mask → Memory.wf s.cap s.slots = true →
    s.ports[i]? = some p → p.pc = .idle → p.cmds = asmPutb vs :: cs → vs.length < 2 ^ 32 →
    (sub32 s.putc s.getc).toNat ≤ s.cap.toNat →
    m = min vs.length (s.cap.toNat - (sub32 s.putc s.getc).toNat) → 1 ≤ m →
    s.sched = List.replicate (4 + 4 * m) (.port i) ++ ts →
    (∀ k, k < m →
      readyForWrite (slotOf s (positionAfter s.putc k)) (positionAfter s.putc k) = true) →
    ∃ t p', run (4 + 4 * m) s = .next t ∧ t.ports[i]? = some p' ∧ p'.pc = .idle ∧ p'.cmds = cs ∧
      p'.rsp = ⟨true, true, false, BitVec.ofNat 32 m,
        add32 (sub32 s.putc s.getc) (BitVec.ofNat 32 m), [], []⟩ ∧
      t.putc = add32 s.putc (BitVec.ofNat 32 m) ∧ t.getc = s.getc ∧ t.cap = s.cap ∧ t.mask = s.mask ∧
      t.cfgErr = false ∧ t.sched = ts ∧ (∀ j, j ≠ i → t.ports[j]? = s.ports[j]?) ∧
      (∀ k, k < m → slotOf t (positionAfter s.putc k) =
        ⟨add32 (positionAfter s.putc k) s.cap, positionAfter s.putc k, some (vs.getD k 0)⟩) ∧
      ∀ j, (∀ k, k < m → j ≠ slotIndex s.mask (positionAfter s.putc k)) →
        readSlot t.cap t.slots j = readSlot s.cap s.slots j

/-- GETB to completion (rule R141): of the items asked for the first `m = min(requested, occ)` come out in position
order, in `4 + 5m` turns of an idle port, with the answer `OK=1 CNT=m OCC=occ-m OUT=items`; every slot
drained is cleared and WRITABLE for its next lap; nothing else changes. The fields `cmds` and `sched`, the words
presented and the turns given, are the model's own: notes/assumptions/5.md, 6.md. -/
def Obligations.GetbAloneCompletes : Prop :=
  ∀ (s : State) (i : Nat) (p : Port) (q : U32) (m : Nat) (ds : List Item) (cs : List Command) (ts : List Turn),
    s.cfgErr = false → capacityOk s.cap s.mask → Memory.wf s.cap s.slots = true →
    s.ports[i]? = some p → p.pc = .idle → p.cmds = asmGetb q :: cs →
    (sub32 s.putc s.getc).toNat ≤ s.cap.toNat →
    m = min q.toNat (sub32 s.putc s.getc).toNat → 1 ≤ m → ds.length = m →
    s.sched = List.replicate (4 + 5 * m) (.port i) ++ ts →
    (∀ k, k < m → slotOf s (positionAfter s.getc k) =
      ⟨add32 (positionAfter s.getc k) s.cap, positionAfter s.getc k, some (ds.getD k 0)⟩) →
    ∃ t p', run (4 + 5 * m) s = .next t ∧ t.ports[i]? = some p' ∧ p'.pc = .idle ∧ p'.cmds = cs ∧
      p'.rsp = ⟨true, true, false, BitVec.ofNat 32 m,
        sub32 (sub32 s.putc s.getc) (BitVec.ofNat 32 m), ds, []⟩ ∧
      t.getc = add32 s.getc (BitVec.ofNat 32 m) ∧ t.putc = s.putc ∧ t.cap = s.cap ∧ t.mask = s.mask ∧
      t.cfgErr = false ∧ t.sched = ts ∧ (∀ j, j ≠ i → t.ports[j]? = s.ports[j]?) ∧
      (∀ k, k < m → slotOf t (positionAfter s.getc k) =
        ⟨add32 (positionAfter s.getc k) s.cap, add32 (positionAfter s.getc k) s.cap, none⟩) ∧
      ∀ j, (∀ k, k < m → j ≠ slotIndex s.mask (positionAfter s.getc k)) →
        readSlot t.cap t.slots j = readSlot s.cap s.slots j

/-- OCC, CAP and STAT to completion (rules R150, R151, R152): the answer, and every location of the shared space as
before. The fields `cmds` and `sched`, the words
presented and the turns given, are the model's own: notes/assumptions/5.md, 6.md. -/
def Obligations.QueriesAloneComplete : Prop :=
  ∀ (s : State) (i : Nat) (p : Port) (cs : List Command) (ts : List Turn),
    s.cfgErr = false → s.ports[i]? = some p → p.pc = .idle →
    (sub32 s.putc s.getc).toNat ≤ s.cap.toNat →
    (p.cmds = asmOcc :: cs → s.sched = List.replicate 3 (.port i) ++ ts →
      ∃ t p', run 3 s = .next t ∧ t.ports[i]? = some p' ∧ p'.pc = .idle ∧ sharedSame s t ∧
        p'.rsp = ⟨true, true, false, 0#32, sub32 s.putc s.getc, [], []⟩) ∧
    (p.cmds = asmCap :: cs → s.sched = List.replicate 2 (.port i) ++ ts →
      ∃ t p', run 2 s = .next t ∧ t.ports[i]? = some p' ∧ p'.pc = .idle ∧ sharedSame s t ∧
        p'.rsp = ⟨true, true, false, 0#32, 0#32, [], [s.cap]⟩) ∧
    (p.cmds = asmStat :: cs → s.sched = List.replicate 3 (.port i) ++ ts →
      ∃ t p', run 3 s = .next t ∧ t.ports[i]? = some p' ∧ p'.pc = .idle ∧ sharedSame s t ∧
        p'.rsp = ⟨true, true, false, 0#32, sub32 s.putc s.getc, [], [s.cap, s.mask, s.putc, s.getc]⟩)

/-- FIFO order of one producer and one consumer (rule R176(c)), one round: on an empty block at rest, a PUT of port `i`
followed by a GET of port `j`, or of port `i` itself, hands back exactly the item put and leaves the block empty and at
rest again, so that the round can be repeated, across the 2^32 wrap of the cursors too (rule R122). The fields `cmds`
and `sched`, the words presented and the turns given, are the model's own: notes/assumptions/5.md, 6.md. -/
def Obligations.PutThenGetRoundTrip : Prop :=
  ∀ (s : State) (i : Nat) (p : Port) (v : Item) (cs : List Command) (ts : List Turn),
    s.cfgErr = false → capacityOk s.cap s.mask → 2 ≤ s.cap.toNat → Memory.wf s.cap s.slots = true →
    quiet s → s.ports[i]? = some p → p.pc = .idle →
    (∀ (j : Nat) (q : Port) (cs' : List Command), i ≠ j → s.ports[j]? = some q → q.pc = .idle →
      p.cmds = asmPut v :: cs → q.cmds = asmGet :: cs' →
      s.sched = List.replicate 8 (.port i) ++ (List.replicate 9 (.port j) ++ ts) →
      ∃ t p' q', run 17 s = .next t ∧ t.ports[i]? = some p' ∧ t.ports[j]? = some q' ∧
        p'.rsp = ⟨true, true, false, 1#32, 1#32, [], []⟩ ∧
        q'.rsp = ⟨true, true, false, 1#32, 0#32, [v], []⟩ ∧
        p'.pc = .idle ∧ q'.pc = .idle ∧ p'.cmds = cs ∧ q'.cmds = cs' ∧ t.sched = ts ∧
        t.putc = add32 s.putc 1#32 ∧ t.cap = s.cap ∧ t.mask = s.mask ∧ t.cfgErr = false ∧
        Memory.wf t.cap t.slots = true ∧ quiet t) ∧
    (p.cmds = asmPut v :: asmGet :: cs →
      s.sched = List.replicate 8 (.port i) ++ (List.replicate 9 (.port i) ++ ts) →
      ∃ t₁ p₁ t p', run 8 s = .next t₁ ∧ t₁.ports[i]? = some p₁ ∧
        p₁.rsp = ⟨true, true, false, 1#32, 1#32, [], []⟩ ∧
        run 9 t₁ = .next t ∧ t.ports[i]? = some p' ∧
        p'.rsp = ⟨true, true, false, 1#32, 0#32, [v], []⟩ ∧
        p'.pc = .idle ∧ p'.cmds = cs ∧ t.sched = ts ∧
        t.putc = add32 s.putc 1#32 ∧ t.cap = s.cap ∧ t.mask = s.mask ∧ t.cfgErr = false ∧
        Memory.wf t.cap t.slots = true ∧ quiet t)

/-! ### Contention, waiting, rejection -/

/-- Of two producers, or two consumers, at RESERVE with the same snapshot of their cursor, the first to step wins and the
second is turned away with nothing written (rules R64, R118). The fields `cmds` and `sched`, the words presented and the
turns given, are the model's own: notes/assumptions/5.md, 6.md. -/
def Obligations.FirstCasWins : Prop :=
  ∀ (s : State) (i j : Nat) (p q : Port) (ts : List Turn),
    s.sched = .port i :: .port j :: ts → i ≠ j → s.ports[i]? = some p → s.ports[j]? = some q →
    p.pc = .reserve → q.pc = .reserve →
    (p.op = 0x01#8 ∨ (p.op = 0x02#8 ∧ p.n ≠ 0#32) → producerOp q.op = true → p.ps = s.putc → q.ps = s.putc →
      ∃ t₁ t₂ p' q', step s = .next t₁ ∧ step t₁ = .next t₂ ∧ sharedSame t₁ t₂ ∧
        t₁.putc ≠ s.putc ∧ t₂.ports[i]? = some p' ∧ t₂.ports[j]? = some q' ∧
        p'.pc = .pollG ∧ p'.pos = add32 s.putc 1#32 ∧ q'.pc = .idle ∧
        q'.rsp = ⟨true, false, false, 0#32, q.occ, [], []⟩) ∧
    (p.op = 0x03#8 ∨ (p.op = 0x04#8 ∧ p.n ≠ 0#32) → consumerOp q.op = true → p.gs = s.getc → q.gs = s.getc →
      ∃ t₁ t₂ p' q', step s = .next t₁ ∧ step t₁ = .next t₂ ∧ sharedSame t₁ t₂ ∧
        t₁.getc ≠ s.getc ∧ t₂.ports[i]? = some p' ∧ t₂.ports[j]? = some q' ∧
        p'.pc = .pollG ∧ p'.pos = add32 s.getc 1#32 ∧ q'.pc = .idle ∧
        q'.rsp = ⟨true, false, false, 0#32, q.occ, [], []⟩)

/-- A failed poll changes only `x[sg]` and `x[sp]` of the polling port and returns it to POLL_G (rule R69), for producers
and consumers. The fields `cmds` and `sched`, the words
presented and the turns given, are the model's own: notes/assumptions/5.md, 6.md. -/
def Obligations.FailedPollOnlySamples : Prop :=
  ∀ (s : State) (i : Nat) (p : Port) (sl : Slot) (ts : List Turn),
    s.sched = .port i :: .port i :: ts → s.ports[i]? = some p → p.pc = .pollG →
    s.slot? (slotIndex s.mask p.pos) = some sl →
    (producerOp p.op = true ∧ readyForWrite sl p.pos = false) ∨
      (consumerOp p.op = true ∧ readyForRead s.cap sl p.pos = false) →
    run 2 s = .next { s with
      sched := ts, active := i, ports := s.ports.set i { p with sg := sl.gseq, sp := sl.pseq } }

/-- A command turned away at SNAP_P or RESERVE has changed nothing and its answer does not say why: `ILL=0 OK=0 CNT=0`, no
items, the estimate (rules R161, R162, R166, R186). -/
def Obligations.RejectionsChangeNothing : Prop :=
  ∀ (s t : State) (j : Instr) (p p' : Port), s.ports[s.active]? = some p → exec j s = .next t →
    t.ports[s.active]? = some p' → p.pc = .snapP ∨ p.pc = .reserve → p'.pc = .idle → p'.rsp.ok = false →
    sharedSame s t ∧ restSame s t ∧ p'.rsp = ⟨true, false, false, 0#32, p'.occ, [], []⟩

/-- The one-slot block never admits a PUT: three turns after it is presented the answer is `OK=0 CNT=0` with the estimate
and nothing has changed (rules R130(b), R190). The fields `cmds` and `sched`, the words
presented and the turns given, are the model's own: notes/assumptions/5.md, 6.md. -/
def Obligations.OneSlotBlockRejectsPut : Prop :=
  ∀ (s : State) (i : Nat) (p : Port) (v : Item) (cs : List Command) (ts : List Turn),
    s.cfgErr = false → s.cap = 1#32 → s.ports[i]? = some p → p.pc = .idle → p.cmds = asmPut v :: cs →
    s.sched = List.replicate 3 (.port i) ++ ts →
    ∃ t p', run 3 s = .next t ∧ t.ports[i]? = some p' ∧ p'.pc = .idle ∧ sharedSame s t ∧
      p'.rsp = ⟨true, false, false, 0#32, min32 (sub32 s.putc s.getc) 1#32, [], []⟩

/-! ### Frames: what a step leaves unchanged -/

/-- OCC, CAP and STAT leave every location of the shared space, every other port and the registers `n`, `k`, `pos`, `sg`,
`sp` unchanged; `op`, `arg`, `IN`, `OUT` and the words presented change at issue only (rules R33, R150
to R152). -/
def Obligations.QueryFrame : Prop :=
  ∀ (s t : State) (j : Instr) (p p' : Port), j = .occ ∨ j = .cap ∨ j = .stat →
    s.ports[s.active]? = some p → exec j s = .next t → t.ports[s.active]? = some p' →
    sharedSame s t ∧ restSame s t ∧
    p'.n = p.n ∧ p'.k = p.k ∧ p'.pos = p.pos ∧ p'.sg = p.sg ∧ p'.sp = p.sp ∧
    (p.pc ≠ .idle → p'.op = p.op ∧ p'.arg = p.arg ∧ p'.inItems = p.inItems ∧ p'.outItems = p.outItems ∧
      p'.cmds = p.cmds)

/-- PUT and PUTB: the only slot a step can change is the one `x[pos]` maps to, only in XFER (its `VAL`) and PUBLISH (its
`PSEQ`); `PUTC` changes only in RESERVE; `GETC`, every `GSEQ`, the configuration, every other port, and
`OUT` after issue are unchanged (rules R50, R123, R130, R131). -/
def Obligations.PutFamilyFrame : Prop :=
  ∀ (s t : State) (j : Instr) (p p' : Port), j = .put ∨ (∃ a, j = .putb a) →
    Memory.wf s.cap s.slots = true →
    s.ports[s.active]? = some p → exec j s = .next t → t.ports[s.active]? = some p' →
    t.cap = s.cap ∧ t.mask = s.mask ∧ t.cfgErr = s.cfgErr ∧ t.getc = s.getc ∧ restSame s t ∧
    (p.pc ≠ .reserve → t.putc = s.putc) ∧
    (∀ k, ¬((p.pc = .xfer ∨ p.pc = .publish) ∧ k = slotIndex s.mask p.pos) →
      readSlot t.cap t.slots k = readSlot s.cap s.slots k) ∧
    (∀ k, (readSlot t.cap t.slots k).gseq = (readSlot s.cap s.slots k).gseq) ∧
    (p.pc = .xfer → ∀ k, (readSlot t.cap t.slots k).pseq = (readSlot s.cap s.slots k).pseq) ∧
    (p.pc = .publish → ∀ k, (readSlot t.cap t.slots k).val = (readSlot s.cap s.slots k).val) ∧
    (p.pc ≠ .idle → p'.op = p.op ∧ p'.arg = p.arg ∧ p'.inItems = p.inItems ∧ p'.outItems = p.outItems ∧
      p'.cmds = p.cmds)

/-- GET and GETB: the only slot a step can change is the one `x[pos]` maps to, only in CLEAR (its `VAL`) and PUBLISH (its
`GSEQ`); `GETC` changes only in RESERVE; `PUTC`, every `PSEQ`, the configuration, every other port, and
`IN` after issue are unchanged (rules R50, R124, R140, R141). -/
def Obligations.GetFamilyFrame : Prop :=
  ∀ (s t : State) (j : Instr) (p p' : Port), j = .get ∨ (∃ a, j = .getb a) →
    Memory.wf s.cap s.slots = true →
    s.ports[s.active]? = some p → exec j s = .next t → t.ports[s.active]? = some p' →
    t.cap = s.cap ∧ t.mask = s.mask ∧ t.cfgErr = s.cfgErr ∧ t.putc = s.putc ∧ restSame s t ∧
    (p.pc ≠ .reserve → t.getc = s.getc) ∧
    (∀ k, ¬((p.pc = .clear ∨ p.pc = .publish) ∧ k = slotIndex s.mask p.pos) →
      readSlot t.cap t.slots k = readSlot s.cap s.slots k) ∧
    (∀ k, (readSlot t.cap t.slots k).pseq = (readSlot s.cap s.slots k).pseq) ∧
    (p.pc = .clear → ∀ k, (readSlot t.cap t.slots k).gseq = (readSlot s.cap s.slots k).gseq) ∧
    (p.pc = .publish → ∀ k, (readSlot t.cap t.slots k).val = (readSlot s.cap s.slots k).val) ∧
    (p.pc ≠ .idle → p'.op = p.op ∧ p'.arg = p.arg ∧ p'.inItems = p.inItems ∧ p'.cmds = p.cmds) ∧
    (p.pc ≠ .idle → p.pc ≠ .xfer → p'.outItems = p.outItems)

/-- The column "Written by step" of the register table (rules R33, R35, R37), for all seven commands: outside the steps it
names, a register keeps its value. The last clause is the model's reading, not the spec's: while `RSP.RV = 0` the other
response registers keep their old answer, which rules R197 and V2 leave open (notes/assumptions/17.md). -/
def Obligations.RegistersChangeOnlyInTheirSteps : Prop :=
  ∀ (s t : State) (j : Instr) (p p' : Port),
    s.ports[s.active]? = some p → exec j s = .next t → t.ports[s.active]? = some p' →
    (p.pc ≠ .idle → p'.op = p.op ∧ p'.arg = p.arg ∧ p'.inItems = p.inItems) ∧
    (p.pc ≠ .snapG → p'.gs = p.gs) ∧
    (p.pc ≠ .snapP → p'.ps = p.ps ∧ p'.occ = p.occ ∧ p'.n = p.n) ∧
    (p.pc ≠ .reserve → p.pc ≠ .publish → p'.k = p.k ∧ p'.pos = p.pos) ∧
    (p.pc ≠ .pollG → p'.sg = p.sg) ∧
    (p.pc ≠ .pollP → p'.sp = p.sp) ∧
    (p.pc ≠ .idle → p.pc ≠ .xfer → p'.outItems = p.outItems) ∧
    (p'.pc ≠ .idle → p'.rsp = { p.rsp with rv := if p.pc = .idle then false else p.rsp.rv })

/-- A turn of one port leaves every other port's registers, item buffers, response and pending words exactly as they were
(rules R11, R33, R172). -/
def Obligations.OtherPortsUntouched : Prop :=
  ∀ (s t : State) (i j : Nat), nextTurn s = .port i → step s = .next t → j ≠ i → t.ports[j]? = s.ports[j]?

/-- What a turn of port `i` does depends on no other port's registers (rules R11, R33): with any other record in place of
port `j`'s, the step answers the same, that record apart. -/
def Obligations.StepIgnoresOtherPorts : Prop :=
  ∀ (s : State) (i j : Nat) (r : Port), nextTurn s = .port i → j ≠ i →
    (∀ t, step s = .next t →
      step { s with ports := s.ports.set j r } = .next { t with ports := t.ports.set j r }) ∧
    (∀ f, step s = .fault f → step { s with ports := s.ports.set j r } = .fault f) ∧
    (∀ f, step s = .refused f → step { s with ports := s.ports.set j r } = .refused f)

/-- Nothing but reset creates, resizes or re-initialises the shared state (rule R43): a port's turn keeps the capacity, the
mask and the error flag; a cursor stays or grows by what a RESERVE of the right family reserves (rules R24, R25), a
sequence counter stays or grows by `CAP` at a PUBLISH of the right family (rules R29, R30), and `VAL` stays, is filled
by a producer's XFER or emptied by a consumer's CLEAR (rule R31), each only in the slot of `x[pos]`. -/
def Obligations.OnlyResetReconfigures : Prop :=
  ∀ (s t : State) (i : Nat) (p : Port), Memory.wf s.cap s.slots = true → nextTurn s = .port i →
    s.ports[i]? = some p → step s = .next t →
    t.cap = s.cap ∧ t.mask = s.mask ∧ t.cfgErr = s.cfgErr ∧
    (t.putc = s.putc ∨
      (p.pc = .reserve ∧ s.putc = p.ps ∧
        ((p.op = 0x01#8 ∧ t.putc = add32 s.putc 1#32) ∨ (p.op = 0x02#8 ∧ t.putc = add32 s.putc p.n)))) ∧
    (t.getc = s.getc ∨
      (p.pc = .reserve ∧ s.getc = p.gs ∧
        ((p.op = 0x03#8 ∧ t.getc = add32 s.getc 1#32) ∨ (p.op = 0x04#8 ∧ t.getc = add32 s.getc p.n)))) ∧
    ∀ k,
      ((readSlot t.cap t.slots k).pseq = (readSlot s.cap s.slots k).pseq ∨
        (p.pc = .publish ∧ producerOp p.op = true ∧ k = slotIndex s.mask p.pos ∧
          (readSlot t.cap t.slots k).pseq = add32 (readSlot s.cap s.slots k).pseq s.cap)) ∧
      ((readSlot t.cap t.slots k).gseq = (readSlot s.cap s.slots k).gseq ∨
        (p.pc = .publish ∧ consumerOp p.op = true ∧ k = slotIndex s.mask p.pos ∧
          (readSlot t.cap t.slots k).gseq = add32 (readSlot s.cap s.slots k).gseq s.cap)) ∧
      ((readSlot t.cap t.slots k).val = (readSlot s.cap s.slots k).val ∨
        (p.pc = .xfer ∧ producerOp p.op = true ∧ k = slotIndex s.mask p.pos ∧
          (readSlot t.cap t.slots k).val ≠ none) ∨
        (p.pc = .clear ∧ consumerOp p.op = true ∧ k = slotIndex s.mask p.pos ∧
          (readSlot t.cap t.slots k).val = none))

/-! ### Invariants that every step keeps -/

/-- The slot array keeps its canonical form (the model's own form: notes/assumptions/8.md). -/
def Obligations.MemoryFormKept : Prop :=
  ∀ s t : State, Memory.wf s.cap s.slots = true → step s = .next t → Memory.wf t.cap t.slots = true

/-- The configuration stays one that a reset leaves (rules R21 to R23, R44(a)), through any reset event. -/
def Obligations.ConfigurationKept : Prop :=
  ∀ s t : State, configOk s → step s = .next t → configOk t

/-- A port moves along the successor table of rule R34 and stays at a phase its operation has. -/
def Obligations.PhasesFollowR34 : Prop :=
  ∀ s t : State, phasesOk s → step s = .next t →
    phasesOk t ∧
    ∀ (i : Nat) (p p' : Port), nextTurn s = .port i → s.ports[i]? = some p → t.ports[i]? = some p' →
      phaseSucc p'.op p.pc p'.pc = true

/-- Every slot's counters stay in the slot's own residue class (rules R44(c), R122(b)). -/
def Obligations.ResiduesKept : Prop :=
  ∀ s t : State, configOk s → Memory.wf s.cap s.slots = true → residuesOk s → step s = .next t → residuesOk t

/-- No response that may be read ever reports an occupancy above `CAP` (rules R120, R176(b), R197), whatever the
interleaving. -/
def Obligations.EstimatesKept : Prop :=
  ∀ s t : State, estimatesOk s → step s = .next t → estimatesOk t

/-- The occupancy stays within `CAP` and the snapshots in order, across the wrap of the cursors, under the proviso of rule
R44 that no port with a snapshot in use is overtaken (rules R26, R44(b), R120, R194; how the proviso is read:
notes/assumptions/23.md). -/
def Obligations.CursorsKept : Prop :=
  ∀ s t : State, CursorsOk s → (∃ r, nextTurn s = .reset r) ∨ notOvertaken s t → step s = .next t → CursorsOk t

/-- The protocol invariant of rule R44 is kept by every port's turn, across the wrap of the cursors, in both ways rule R194
allows: as long as fewer than 2^32 put reservations have been made since reset, or as long as no port is overtaken by
2^32 of them while it uses a snapshot or a position (the proviso of R44; how it is read: notes/assumptions/23.md).
A reset event with a legal request starts the count again. -/
def Obligations.ProtocolKept : Prop :=
  ∀ (m : Nat) (s t : State), ProtocolAfter m s → step s = .next t →
    (∀ i, nextTurn s = .port i →
      m + (sub32 t.putc s.putc).toNat < 2 ^ 32 ∨ liveNotOvertaken s t →
      ProtocolAfter (m + (sub32 t.putc s.putc).toNat) t) ∧
    (∀ r, nextTurn s = .reset r → r.toNat ≤ 0x80000000 → ProtocolAfter 0 t)

/-- After reset, with any request and any number of ports, the invariants hold that need no premise. -/
def Obligations.ResetMeetsInvariants : Prop :=
  ∀ (r : U32) (n : Nat),
    Memory.wf (State.resetWith r n).cap (State.resetWith r n).slots = true ∧
    configOk (State.resetWith r n) ∧ phasesOk (State.resetWith r n) ∧
    residuesOk (State.resetWith r n) ∧ estimatesOk (State.resetWith r n) ∧
    CursorsOk (State.resetWith r n) ∧ final (State.resetWith r n)

/-- After reset with a legal request the protocol invariant holds with no reservation made, every slot is WRITABLE for the
first position that maps to it, and the block is empty and at rest (rules R40, R116, R117). -/
def Obligations.ResetMeetsProtocol : Prop :=
  ∀ (r : U32) (n : Nat), r.toNat ≤ 0x80000000 →
    ProtocolAfter 0 (State.resetWith r n) ∧ quiet (State.resetWith r n) ∧
    ∀ i, i < (State.resetWith r n).cap.toNat →
      slotState (State.resetWith r n).cap
          (readSlot (State.resetWith r n).cap (State.resetWith r n).slots i) =
        .writable (if i = 0 then (State.resetWith r n).cap else BitVec.ofNat 32 i)

/-! ### What the invariants give -/

/-- The block never faults (rule R160): under the protocol invariant a turn answers a next state, or names a port that does
not exist. In particular no consumer reads an empty slot (U6). -/
def Obligations.ProtocolNeverFaults : Prop :=
  ∀ s : State, ProtocolOk s → ∀ f, step s ≠ .fault f

/-- A turn of an existing port has exactly one outcome (rule R67). With a legal configuration and every port at a phase of
its operation it is a next state, or the one read that the spec leaves without a result, a consumer's XFER of an empty
slot (U6; that it faults: notes/assumptions/11.md); under the protocol invariant it is always a next state. -/
def Obligations.EveryTurnHasAStep : Prop :=
  ∀ (s : State) (i : Nat) (p : Port), nextTurn s = .port i → s.ports[i]? = some p →
    (configOk s → phasesOk s →
      (∃ t, step s = .next t) ∨
        (step s = .fault (.emptySlotRead p.pos) ∧ p.pc = .xfer ∧ consumerOp p.op = true ∧
          (slotOf s p.pos).val = none)) ∧
    (ProtocolOk s → ∃ t, step s = .next t)

/-- Per slot at most one port is at XFER, CLEAR or PUBLISH, and while it is, no other port's turn changes the slot
(rule R44(e)). Ports may poll the slot meanwhile (rules R16, R121). -/
def Obligations.HandshakesAreExclusive : Prop :=
  ∀ (s : State) (a b : Nat) (p q : Port), ProtocolOk s → s.ports[a]? = some p → s.ports[b]? = some q →
    p.pc = .xfer ∨ p.pc = .clear ∨ p.pc = .publish →
    (q.pc = .xfer ∨ q.pc = .clear ∨ q.pc = .publish →
      slotIndex s.mask p.pos = slotIndex s.mask q.pos → a = b) ∧
    (∀ t, a ≠ b → nextTurn s = .port b → step s = .next t → slotOf t p.pos = slotOf s p.pos)

/-- What the protocol invariant says of the shared state, in the registers' own terms: rule R44(a) to (d), and (f) with the
two windows of rule R32 (an item that is stored but not published, or taken but not released, has exactly one port at
its PUBLISH). R44(e) is `HandshakesAreExclusive`, R44(g) `WaitingPositionsAreAccountedFor`. -/
def Obligations.ProtocolGivesR44 : Prop :=
  ∀ s : State, ProtocolOk s →
    capacityOk s.cap s.mask ∧ (sub32 s.putc s.getc).toNat ≤ s.cap.toNat ∧ residuesOk s ∧
    ∀ k, k < s.cap.toNat →
      (sub32 (readSlot s.cap s.slots k).pseq (readSlot s.cap s.slots k).gseq = 0#32 ∨
        sub32 (readSlot s.cap s.slots k).pseq (readSlot s.cap s.slots k).gseq = s.cap) ∧
      ((readSlot s.cap s.slots k).val ≠ none ↔
        ∃ g v, slotState s.cap (readSlot s.cap s.slots k) = .filled g v ∨
          slotState s.cap (readSlot s.cap s.slots k) = .readable g v) ∧
      ((readSlot s.cap s.slots k).val = none ↔
        ∃ g, slotState s.cap (readSlot s.cap s.slots k) = .writable g ∨
          slotState s.cap (readSlot s.cap s.slots k) = .drained g) ∧
      (∀ g v, slotState s.cap (readSlot s.cap s.slots k) = .filled g v →
        ∃! a : Nat, ∃ p : Port, s.ports[a]? = some p ∧ producerOp p.op = true ∧ p.pc = .publish ∧ p.pos = g) ∧
      (∀ g, slotState s.cap (readSlot s.cap s.slots k) = .drained g →
        ∃! a : Nat, ∃ p : Port, s.ports[a]? = some p ∧ consumerOp p.op = true ∧ p.pc = .publish ∧ p.pos = g)

/-- Every slot moves only along the cycle WRITABLE, FILLED, READABLE, DRAINED, WRITABLE for the next lap (rule R117), so the
item a consumer takes for a position is the one the producer of that position stored (rule R125). -/
def Obligations.SlotsFollowTheCycle : Prop :=
  ∀ (s t : State) (i k : Nat), ProtocolOk s → nextTurn s = .port i → step s = .next t → k < s.cap.toNat →
    slotMove s.cap (slotState s.cap (readSlot s.cap s.slots k)) (slotState t.cap (readSlot t.cap t.slots k)) ∧
    slotState s.cap (readSlot s.cap s.slots k) ≠ .outside

/-- No loss, no duplication (rules R125, R176(a)), turn by turn. Only a producer's XFER adds an item to the slots, the one
of its lane; only a consumer's CLEAR removes one, the one last appended to its `OUT`; every other turn leaves the items
in the slots as they are. A consumer's XFER appends the slot's item to `OUT` once, no later step of the operation
changes `OUT`, and the response hands the host all of `OUT`, `RSP.CNT` counting its items. -/
def Obligations.ItemsAreConserved : Prop :=
  ∀ (s t : State) (i : Nat) (p p' : Port), ProtocolOk s → nextTurn s = .port i → s.ports[i]? = some p →
    step s = .next t → t.ports[i]? = some p' →
    (p.pc = .xfer → p.op = 0x01#8 → (storedItems t).Perm (p.inItems.getD 0 0 :: storedItems s)) ∧
    (p.pc = .xfer → p.op = 0x02#8 → (storedItems t).Perm (p.inItems.getD p.k.toNat 0 :: storedItems s)) ∧
    (p.pc = .clear → ∃ before d, p.outItems = before ++ [d] ∧ (storedItems s).Perm (d :: storedItems t)) ∧
    (p.pc ≠ .clear → ¬(p.pc = .xfer ∧ producerOp p.op = true) → storedItems t = storedItems s) ∧
    (consumerOp p.op = true → p.pc = .xfer →
      ∃ d, (slotOf s p.pos).val = some d ∧ p'.outItems = p.outItems ++ [d]) ∧
    (consumerOp p.op = true → p.pc ≠ .idle → p.pc ≠ .xfer → p'.outItems = p.outItems) ∧
    (consumerOp p.op = true → p.pc ≠ .idle → p'.pc = .idle →
      p'.rsp.out = p.outItems ∧ p'.rsp.cnt.toNat = p.outItems.length)

/-- Every reserved and not yet taken position is either still with exactly one producer, or READABLE in its slot, positions
being taken in wrap order (rule R44(g)). -/
def Obligations.WaitingPositionsAreAccountedFor : Prop :=
  ∀ (s : State) (q : U32), ProtocolOk s → 1 ≤ (sub32 q s.getc).toNat →
    (sub32 q s.getc).toNat ≤ (sub32 s.putc s.getc).toNat →
    (∃ (a : Nat) (p : Port), s.ports[a]? = some p ∧ holdsPut p q ∧
      ∀ (b : Nat) (p' : Port), s.ports[b]? = some p' → holdsPut p' q → b = a) ∨
    ((∀ p ∈ s.ports, ¬ holdsPut p q) ∧ ∃ v, slotState s.cap (slotOf s q) = .readable q v)

/-- No PUT is accepted when the block is at its full threshold: if its CAS succeeds, the true occupancy at that instant was
below `CAP - 1`; and no CAS of PUT or PUTB takes the occupancy above `CAP` (rules R130(d), R176(b)). -/
def Obligations.NoPutAcceptedWhenFull : Prop :=
  ∀ (s t : State) (i : Nat) (p p' : Port), CursorsOk s → nextTurn s = .port i → s.ports[i]? = some p →
    p.pc = .reserve → step s = .next t → t.ports[i]? = some p' → p'.pc = .pollG →
    (p.op = 0x01#8 → (sub32 s.putc s.getc).toNat + 1 < s.cap.toNat) ∧
    (p.op = 0x02#8 → (sub32 s.putc s.getc).toNat + p.n.toNat ≤ s.cap.toNat) ∧
    (p.op = 0x03#8 → 1 ≤ (sub32 s.putc s.getc).toNat) ∧
    (p.op = 0x04#8 → p.n.toNat ≤ (sub32 s.putc s.getc).toNat)

/-! ### Payloads, the response header, positions -/

/-- A width bound on items is kept: if every item in the state and every item the host will present fits in `w` bits, for
any `w`, so does every item after a turn (rules R9, R31, R37, R83). Items as numbers, the buffers' contents after a
reset turn, and what the host presents are the model's own: notes/assumptions/3.md, 4.md, 16.md; 5.md, 6.md. -/
def Obligations.ItemWidthKept : Prop :=
  ∀ (w : Nat) (s t : State), Memory.wf s.cap s.slots = true → itemsFit w s → step s = .next t → itemsFit w t

/-- The bits of a payload (rule R9): `none` is all zero, `some(d)` has `FULL = 1`, and `w`-bit items keep their bits. -/
def Obligations.PayloadBitsOfR9 : Prop :=
  ∀ w : Nat,
    payloadBits w none = 0#(1 + w) ∧
    ∀ d, Item.fits w d = true →
      (payloadBits w (some d)).toNat = 2 ^ w + d ∧ payloadBits w (some d) ≠ payloadBits w none

/-- The response header (rule R84): each field in its place, bits 95 to 66 zero. -/
def Obligations.HeaderLayoutOfR84 : Prop :=
  ∀ r : Rsp,
    r.header.extractLsb' 66 30 = 0#30 ∧ r.header.extractLsb' 65 1 = BitVec.ofBool r.ill ∧
    r.header.extractLsb' 64 1 = BitVec.ofBool r.ok ∧ r.header.extractLsb' 32 32 = r.cnt ∧
    r.header.extractLsb' 0 32 = r.occ

/-- Positions are wrap-safe (rules R52, R122(a), (b)): the slot index is the position modulo `CAP`, always in range;
consecutive positions fall on consecutive slots, and `CAP` further on the same slot, also across 2^32. -/
def Obligations.PositionsAreWrapSafe : Prop :=
  ∀ cap mask pos : U32, capacityOk cap mask →
    slotIndex mask pos = pos.toNat % cap.toNat ∧ slotIndex mask pos < cap.toNat ∧
    slotIndex mask (add32 pos 1#32) = (slotIndex mask pos + 1) % cap.toNat ∧
    slotIndex mask (add32 pos cap) = slotIndex mask pos
end

