-- ==== Sys2Proof/Laws/State.lean ====
section
/-! SUPPORT. One lemma per field per update of the state records, all true by rfl. -/

namespace Sys2Proof.Machine

/-! ### `State.setPort` -/

@[simp] theorem State.setPort_cap (s : State) (p : Port) : (s.setPort p).cap = s.cap := rfl
@[simp] theorem State.setPort_mask (s : State) (p : Port) : (s.setPort p).mask = s.mask := rfl
@[simp] theorem State.setPort_cfgErr (s : State) (p : Port) : (s.setPort p).cfgErr = s.cfgErr := rfl
@[simp] theorem State.setPort_putc (s : State) (p : Port) : (s.setPort p).putc = s.putc := rfl
@[simp] theorem State.setPort_getc (s : State) (p : Port) : (s.setPort p).getc = s.getc := rfl
@[simp] theorem State.setPort_slots (s : State) (p : Port) : (s.setPort p).slots = s.slots := rfl
@[simp] theorem State.setPort_ports (s : State) (p : Port) :
    (s.setPort p).ports = s.ports.set s.active p := rfl
@[simp] theorem State.setPort_sched (s : State) (p : Port) : (s.setPort p).sched = s.sched := rfl
@[simp] theorem State.setPort_freeTurns (s : State) (p : Port) : (s.setPort p).freeTurns = s.freeTurns := rfl
@[simp] theorem State.setPort_active (s : State) (p : Port) : (s.setPort p).active = s.active := rfl

/-! ### `State.setSlot` -/

@[simp] theorem State.setSlot_cap (s : State) (i : Nat) (v : Slot) : (s.setSlot i v).cap = s.cap := rfl
@[simp] theorem State.setSlot_mask (s : State) (i : Nat) (v : Slot) : (s.setSlot i v).mask = s.mask := rfl
@[simp] theorem State.setSlot_cfgErr (s : State) (i : Nat) (v : Slot) : (s.setSlot i v).cfgErr = s.cfgErr := rfl
@[simp] theorem State.setSlot_putc (s : State) (i : Nat) (v : Slot) : (s.setSlot i v).putc = s.putc := rfl
@[simp] theorem State.setSlot_getc (s : State) (i : Nat) (v : Slot) : (s.setSlot i v).getc = s.getc := rfl
@[simp] theorem State.setSlot_slots (s : State) (i : Nat) (v : Slot) :
    (s.setSlot i v).slots = writeSlot s.cap s.slots i v := rfl
@[simp] theorem State.setSlot_ports (s : State) (i : Nat) (v : Slot) : (s.setSlot i v).ports = s.ports := rfl
@[simp] theorem State.setSlot_sched (s : State) (i : Nat) (v : Slot) : (s.setSlot i v).sched = s.sched := rfl
@[simp] theorem State.setSlot_freeTurns (s : State) (i : Nat) (v : Slot) : (s.setSlot i v).freeTurns = s.freeTurns := rfl
@[simp] theorem State.setSlot_active (s : State) (i : Nat) (v : Slot) : (s.setSlot i v).active = s.active := rfl

/-! ### `Port.respond` -/

@[simp] theorem Port.respond_pc (p : Port) (r : Rsp) : (p.respond r).pc = .idle := rfl
@[simp] theorem Port.respond_op (p : Port) (r : Rsp) : (p.respond r).op = p.op := rfl
@[simp] theorem Port.respond_arg (p : Port) (r : Rsp) : (p.respond r).arg = p.arg := rfl
@[simp] theorem Port.respond_gs (p : Port) (r : Rsp) : (p.respond r).gs = p.gs := rfl
@[simp] theorem Port.respond_ps (p : Port) (r : Rsp) : (p.respond r).ps = p.ps := rfl
@[simp] theorem Port.respond_occ (p : Port) (r : Rsp) : (p.respond r).occ = p.occ := rfl
@[simp] theorem Port.respond_n (p : Port) (r : Rsp) : (p.respond r).n = p.n := rfl
@[simp] theorem Port.respond_k (p : Port) (r : Rsp) : (p.respond r).k = p.k := rfl
@[simp] theorem Port.respond_pos (p : Port) (r : Rsp) : (p.respond r).pos = p.pos := rfl
@[simp] theorem Port.respond_sg (p : Port) (r : Rsp) : (p.respond r).sg = p.sg := rfl
@[simp] theorem Port.respond_sp (p : Port) (r : Rsp) : (p.respond r).sp = p.sp := rfl
@[simp] theorem Port.respond_inItems (p : Port) (r : Rsp) : (p.respond r).inItems = p.inItems := rfl
@[simp] theorem Port.respond_outItems (p : Port) (r : Rsp) : (p.respond r).outItems = p.outItems := rfl
@[simp] theorem Port.respond_rsp (p : Port) (r : Rsp) : (p.respond r).rsp = r := rfl
@[simp] theorem Port.respond_cmds (p : Port) (r : Rsp) : (p.respond r).cmds = p.cmds := rfl

/-! ### `Port.snapshot` -/

@[simp] theorem Port.snapshot_pc (p : Port) (s : State) : (p.snapshot s).pc = p.pc := rfl
@[simp] theorem Port.snapshot_op (p : Port) (s : State) : (p.snapshot s).op = p.op := rfl
@[simp] theorem Port.snapshot_arg (p : Port) (s : State) : (p.snapshot s).arg = p.arg := rfl
@[simp] theorem Port.snapshot_gs (p : Port) (s : State) : (p.snapshot s).gs = p.gs := rfl
@[simp] theorem Port.snapshot_ps (p : Port) (s : State) : (p.snapshot s).ps = s.putc := rfl
@[simp] theorem Port.snapshot_occ (p : Port) (s : State) : (p.snapshot s).occ = est s.cap p.gs s.putc := rfl
@[simp] theorem Port.snapshot_n (p : Port) (s : State) : (p.snapshot s).n = p.n := rfl
@[simp] theorem Port.snapshot_k (p : Port) (s : State) : (p.snapshot s).k = p.k := rfl
@[simp] theorem Port.snapshot_pos (p : Port) (s : State) : (p.snapshot s).pos = p.pos := rfl
@[simp] theorem Port.snapshot_sg (p : Port) (s : State) : (p.snapshot s).sg = p.sg := rfl
@[simp] theorem Port.snapshot_sp (p : Port) (s : State) : (p.snapshot s).sp = p.sp := rfl
@[simp] theorem Port.snapshot_inItems (p : Port) (s : State) : (p.snapshot s).inItems = p.inItems := rfl
@[simp] theorem Port.snapshot_outItems (p : Port) (s : State) : (p.snapshot s).outItems = p.outItems := rfl
@[simp] theorem Port.snapshot_rsp (p : Port) (s : State) : (p.snapshot s).rsp = p.rsp := rfl
@[simp] theorem Port.snapshot_cmds (p : Port) (s : State) : (p.snapshot s).cmds = p.cmds := rfl

/-! ### `Port.reserved` -/

@[simp] theorem Port.reserved_pc (p : Port) (c : U32) : (p.reserved c).pc = .pollG := rfl
@[simp] theorem Port.reserved_op (p : Port) (c : U32) : (p.reserved c).op = p.op := rfl
@[simp] theorem Port.reserved_arg (p : Port) (c : U32) : (p.reserved c).arg = p.arg := rfl
@[simp] theorem Port.reserved_gs (p : Port) (c : U32) : (p.reserved c).gs = p.gs := rfl
@[simp] theorem Port.reserved_ps (p : Port) (c : U32) : (p.reserved c).ps = p.ps := rfl
@[simp] theorem Port.reserved_occ (p : Port) (c : U32) : (p.reserved c).occ = p.occ := rfl
@[simp] theorem Port.reserved_n (p : Port) (c : U32) : (p.reserved c).n = p.n := rfl
@[simp] theorem Port.reserved_k (p : Port) (c : U32) : (p.reserved c).k = 0#32 := rfl
@[simp] theorem Port.reserved_pos (p : Port) (c : U32) : (p.reserved c).pos = add32 c 1#32 := rfl
@[simp] theorem Port.reserved_sg (p : Port) (c : U32) : (p.reserved c).sg = p.sg := rfl
@[simp] theorem Port.reserved_sp (p : Port) (c : U32) : (p.reserved c).sp = p.sp := rfl
@[simp] theorem Port.reserved_inItems (p : Port) (c : U32) : (p.reserved c).inItems = p.inItems := rfl
@[simp] theorem Port.reserved_outItems (p : Port) (c : U32) : (p.reserved c).outItems = p.outItems := rfl
@[simp] theorem Port.reserved_rsp (p : Port) (c : U32) : (p.reserved c).rsp = p.rsp := rfl
@[simp] theorem Port.reserved_cmds (p : Port) (c : U32) : (p.reserved c).cmds = p.cmds := rfl

/-! ### `Port.nextItem` -/

@[simp] theorem Port.nextItem_pc (p : Port) : p.nextItem.pc = .pollG := rfl
@[simp] theorem Port.nextItem_op (p : Port) : p.nextItem.op = p.op := rfl
@[simp] theorem Port.nextItem_arg (p : Port) : p.nextItem.arg = p.arg := rfl
@[simp] theorem Port.nextItem_gs (p : Port) : p.nextItem.gs = p.gs := rfl
@[simp] theorem Port.nextItem_ps (p : Port) : p.nextItem.ps = p.ps := rfl
@[simp] theorem Port.nextItem_occ (p : Port) : p.nextItem.occ = p.occ := rfl
@[simp] theorem Port.nextItem_n (p : Port) : p.nextItem.n = p.n := rfl
@[simp] theorem Port.nextItem_k (p : Port) : p.nextItem.k = add32 p.k 1#32 := rfl
@[simp] theorem Port.nextItem_pos (p : Port) : p.nextItem.pos = add32 p.pos 1#32 := rfl
@[simp] theorem Port.nextItem_sg (p : Port) : p.nextItem.sg = p.sg := rfl
@[simp] theorem Port.nextItem_sp (p : Port) : p.nextItem.sp = p.sp := rfl
@[simp] theorem Port.nextItem_inItems (p : Port) : p.nextItem.inItems = p.inItems := rfl
@[simp] theorem Port.nextItem_outItems (p : Port) : p.nextItem.outItems = p.outItems := rfl
@[simp] theorem Port.nextItem_rsp (p : Port) : p.nextItem.rsp = p.rsp := rfl
@[simp] theorem Port.nextItem_cmds (p : Port) : p.nextItem.cmds = p.cmds := rfl

/-! ### Slots and responses -/

@[simp] theorem Slot.withVal_pseq (sl : Slot) (v : Option Item) : (sl.withVal v).pseq = sl.pseq := rfl
@[simp] theorem Slot.withVal_gseq (sl : Slot) (v : Option Item) : (sl.withVal v).gseq = sl.gseq := rfl
@[simp] theorem Slot.withVal_val (sl : Slot) (v : Option Item) : (sl.withVal v).val = v := rfl
@[simp] theorem Slot.addPseq_pseq (sl : Slot) (d : U32) : (sl.addPseq d).pseq = add32 sl.pseq d := rfl
@[simp] theorem Slot.addPseq_gseq (sl : Slot) (d : U32) : (sl.addPseq d).gseq = sl.gseq := rfl
@[simp] theorem Slot.addPseq_val (sl : Slot) (d : U32) : (sl.addPseq d).val = sl.val := rfl
@[simp] theorem Slot.addGseq_pseq (sl : Slot) (d : U32) : (sl.addGseq d).pseq = sl.pseq := rfl
@[simp] theorem Slot.addGseq_gseq (sl : Slot) (d : U32) : (sl.addGseq d).gseq = add32 sl.gseq d := rfl
@[simp] theorem Slot.addGseq_val (sl : Slot) (d : U32) : (sl.addGseq d).val = sl.val := rfl
@[simp] theorem Slot.initial_pseq (cap : U32) (i : Nat) : (Slot.initial cap i).pseq = initialSeq cap i := rfl
@[simp] theorem Slot.initial_gseq (cap : U32) (i : Nat) : (Slot.initial cap i).gseq = initialSeq cap i := rfl
@[simp] theorem Slot.initial_val (cap : U32) (i : Nat) : (Slot.initial cap i).val = none := rfl
@[simp] theorem Rsp.answer_rv (ok : Bool) (cnt occ : U32) (out : List Item) (q : List U32) :
    (Rsp.answer ok cnt occ out q).rv = true := rfl
@[simp] theorem Rsp.answer_ok (ok : Bool) (cnt occ : U32) (out : List Item) (q : List U32) :
    (Rsp.answer ok cnt occ out q).ok = ok := rfl
@[simp] theorem Rsp.answer_ill (ok : Bool) (cnt occ : U32) (out : List Item) (q : List U32) :
    (Rsp.answer ok cnt occ out q).ill = false := rfl
@[simp] theorem Rsp.answer_cnt (ok : Bool) (cnt occ : U32) (out : List Item) (q : List U32) :
    (Rsp.answer ok cnt occ out q).cnt = cnt := rfl
@[simp] theorem Rsp.answer_occ (ok : Bool) (cnt occ : U32) (out : List Item) (q : List U32) :
    (Rsp.answer ok cnt occ out q).occ = occ := rfl
@[simp] theorem Rsp.answer_out (ok : Bool) (cnt occ : U32) (out : List Item) (q : List U32) :
    (Rsp.answer ok cnt occ out q).out = out := rfl
@[simp] theorem Rsp.answer_q (ok : Bool) (cnt occ : U32) (out : List Item) (q : List U32) :
    (Rsp.answer ok cnt occ out q).q = q := rfl
@[simp] theorem Rsp.rejected_rv (occ : U32) : (Rsp.rejected occ).rv = true := rfl
@[simp] theorem Rsp.rejected_ok (occ : U32) : (Rsp.rejected occ).ok = false := rfl
@[simp] theorem Rsp.rejected_ill (occ : U32) : (Rsp.rejected occ).ill = false := rfl
@[simp] theorem Rsp.rejected_cnt (occ : U32) : (Rsp.rejected occ).cnt = 0#32 := rfl
@[simp] theorem Rsp.rejected_occ (occ : U32) : (Rsp.rejected occ).occ = occ := rfl
@[simp] theorem Rsp.rejected_out (occ : U32) : (Rsp.rejected occ).out = [] := rfl
@[simp] theorem Rsp.rejected_q (occ : U32) : (Rsp.rejected occ).q = [] := rfl
@[simp] theorem Rsp.illegal_rv : Rsp.illegal.rv = true := rfl
@[simp] theorem Rsp.illegal_ok : Rsp.illegal.ok = false := rfl
@[simp] theorem Rsp.illegal_ill : Rsp.illegal.ill = true := rfl
@[simp] theorem Rsp.illegal_cnt : Rsp.illegal.cnt = 0#32 := rfl
@[simp] theorem Rsp.illegal_occ : Rsp.illegal.occ = 0#32 := rfl
@[simp] theorem Rsp.illegal_out : Rsp.illegal.out = [] := rfl
@[simp] theorem Rsp.illegal_q : Rsp.illegal.q = [] := rfl

/-! ### Turns and reset -/

@[simp] theorem afterTurn_cap (s : State) : (afterTurn s).cap = s.cap := by
  unfold afterTurn; split <;> rfl
@[simp] theorem afterTurn_mask (s : State) : (afterTurn s).mask = s.mask := by
  unfold afterTurn; split <;> rfl
@[simp] theorem afterTurn_cfgErr (s : State) : (afterTurn s).cfgErr = s.cfgErr := by
  unfold afterTurn; split <;> rfl
@[simp] theorem afterTurn_putc (s : State) : (afterTurn s).putc = s.putc := by
  unfold afterTurn; split <;> rfl
@[simp] theorem afterTurn_getc (s : State) : (afterTurn s).getc = s.getc := by
  unfold afterTurn; split <;> rfl
@[simp] theorem afterTurn_slots (s : State) : (afterTurn s).slots = s.slots := by
  unfold afterTurn; split <;> rfl
@[simp] theorem afterTurn_ports (s : State) : (afterTurn s).ports = s.ports := by
  unfold afterTurn; split <;> rfl
@[simp] theorem afterTurn_active (s : State) : (afterTurn s).active = s.active := by
  unfold afterTurn; split <;> rfl
@[simp] theorem resetEvent_cap (req : U32) (s : State) :
    (resetEvent req s).cap = resetCap req := rfl
@[simp] theorem resetEvent_mask (req : U32) (s : State) :
    (resetEvent req s).mask = resetMask req := rfl
@[simp] theorem resetEvent_cfgErr (req : U32) (s : State) :
    (resetEvent req s).cfgErr = resetCfgErr req := rfl
@[simp] theorem resetEvent_putc (req : U32) (s : State) :
    (resetEvent req s).putc = 0#32 := rfl
@[simp] theorem resetEvent_getc (req : U32) (s : State) :
    (resetEvent req s).getc = 0#32 := rfl
@[simp] theorem resetEvent_slots (req : U32) (s : State) :
    (resetEvent req s).slots = [] := rfl
@[simp] theorem resetEvent_ports (req : U32) (s : State) :
    (resetEvent req s).ports = s.ports.map fun p => { Port.reset with cmds := p.cmds } := rfl
@[simp] theorem resetEvent_sched (req : U32) (s : State) :
    (resetEvent req s).sched = s.sched := rfl
@[simp] theorem resetEvent_freeTurns (req : U32) (s : State) :
    (resetEvent req s).freeTurns = s.freeTurns := rfl
@[simp] theorem resetEvent_active (req : U32) (s : State) :
    (resetEvent req s).active = s.active := rfl
@[simp] theorem State.resetWith_cap (req : U32) (n : Nat) :
    (State.resetWith req n).cap = resetCap req := rfl
@[simp] theorem State.resetWith_mask (req : U32) (n : Nat) :
    (State.resetWith req n).mask = resetMask req := rfl
@[simp] theorem State.resetWith_cfgErr (req : U32) (n : Nat) :
    (State.resetWith req n).cfgErr = resetCfgErr req := rfl
@[simp] theorem State.resetWith_putc (req : U32) (n : Nat) :
    (State.resetWith req n).putc = 0#32 := rfl
@[simp] theorem State.resetWith_getc (req : U32) (n : Nat) :
    (State.resetWith req n).getc = 0#32 := rfl
@[simp] theorem State.resetWith_slots (req : U32) (n : Nat) :
    (State.resetWith req n).slots = [] := rfl
@[simp] theorem State.resetWith_ports (req : U32) (n : Nat) :
    (State.resetWith req n).ports = List.replicate n Port.reset := rfl
@[simp] theorem State.resetWith_sched (req : U32) (n : Nat) :
    (State.resetWith req n).sched = [] := rfl
@[simp] theorem State.resetWith_freeTurns (req : U32) (n : Nat) :
    (State.resetWith req n).freeTurns = 0 := rfl
@[simp] theorem State.resetWith_active (req : U32) (n : Nat) :
    (State.resetWith req n).active = 0 := rfl

end Sys2Proof.Machine
end

