-- ==== Sys2Proof/Laws/Memory.lean ====
section
/-! SUPPORT. The slot array: a write is read back, leaves every other slot alone, and keeps the canonical form. -/

namespace Sys2Proof.Machine

variable {cap : U32}

theorem readSlot_consSlot_other {i j : Nat} (h : j ≠ i) (v : Slot) (rest : List (Nat × Slot)) :
    readSlot cap (consSlot cap i v rest) j = readSlot cap rest j := by
  unfold consSlot; split <;> simp [readSlot, h]

/-- The frame of a slot write: every other slot reads as before. -/
theorem readSlot_writeSlot_other {i j : Nat} (h : j ≠ i) (v : Slot) (m : List (Nat × Slot)) :
    readSlot cap (writeSlot cap m i v) j = readSlot cap m j := by
  induction m with
  | nil => exact readSlot_consSlot_other h v []
  | cons e rest ih =>
    obtain ⟨k, u⟩ := e
    simp only [writeSlot]
    split
    · exact readSlot_consSlot_other h v _
    · split
      · rename_i hk; subst hk
        rw [readSlot_consSlot_other h]; simp [readSlot, h]
      · simp only [readSlot]; split
        · rfl
        · exact ih

/-- Below its first index a canonical list lists nothing. -/
theorem readSlot_of_wfFrom {lo i : Nat} {m : List (Nat × Slot)} (hm : slotsWfFrom cap lo m = true)
    (h : i < lo) : readSlot cap m i = Slot.initial cap i := by
  induction m generalizing lo with
  | nil => rfl
  | cons e rest ih =>
    obtain ⟨k, u⟩ := e
    simp only [slotsWfFrom, Bool.and_eq_true, decide_eq_true_eq] at hm
    have hk : i ≠ k := by omega
    simp only [readSlot, hk, if_false]
    exact ih hm.2 (by omega)

theorem slotsWfFrom_mono {lo lo' : Nat} {m : List (Nat × Slot)} (h : lo' ≤ lo)
    (hm : slotsWfFrom cap lo m = true) : slotsWfFrom cap lo' m = true := by
  cases m with
  | nil => rfl
  | cons e rest =>
    obtain ⟨k, u⟩ := e
    simp only [slotsWfFrom, Bool.and_eq_true, decide_eq_true_eq] at hm ⊢
    exact ⟨⟨⟨by omega, hm.1.1.2⟩, hm.1.2⟩, hm.2⟩

theorem readSlot_consSlot_same {i : Nat} (v : Slot) {rest : List (Nat × Slot)}
    (hr : slotsWfFrom cap (i + 1) rest = true) : readSlot cap (consSlot cap i v rest) i = v := by
  unfold consSlot; split
  · rename_i hv; rw [readSlot_of_wfFrom hr (by omega), hv]
  · simp [readSlot]

theorem readSlot_writeSlot_same_from {lo i : Nat} (v : Slot) {m : List (Nat × Slot)}
    (hm : slotsWfFrom cap lo m = true) : readSlot cap (writeSlot cap m i v) i = v := by
  induction m generalizing lo with
  | nil => exact readSlot_consSlot_same v rfl
  | cons e rest ih =>
    obtain ⟨k, u⟩ := e
    have hm' := hm
    simp only [slotsWfFrom, Bool.and_eq_true, decide_eq_true_eq] at hm'
    simp only [writeSlot]
    split
    · apply readSlot_consSlot_same
      simp only [slotsWfFrom, Bool.and_eq_true, decide_eq_true_eq]
      exact ⟨⟨⟨by omega, hm'.1.1.2⟩, hm'.1.2⟩, hm'.2⟩
    · split
      · rename_i hk; subst hk; exact readSlot_consSlot_same v hm'.2
      · rename_i hk; simp only [readSlot, hk, if_false]; exact ih hm'.2

/-- A slot write is read back, in a canonical slot array. -/
theorem readSlot_writeSlot_same {i : Nat} (v : Slot) {m : List (Nat × Slot)} (hm : Memory.wf cap m = true) :
    readSlot cap (writeSlot cap m i v) i = v :=
  readSlot_writeSlot_same_from v hm

theorem consSlot_wfFrom {lo i : Nat} (v : Slot) {rest : List (Nat × Slot)} (hl : lo ≤ i)
    (hi : i < cap.toNat) (hr : slotsWfFrom cap (i + 1) rest = true) :
    slotsWfFrom cap lo (consSlot cap i v rest) = true := by
  unfold consSlot; split
  · exact slotsWfFrom_mono (by omega) hr
  · rename_i hv
    simp only [slotsWfFrom, Bool.and_eq_true, decide_eq_true_eq]
    exact ⟨⟨⟨hl, hi⟩, hv⟩, hr⟩

theorem writeSlot_wfFrom {lo i : Nat} (v : Slot) {m : List (Nat × Slot)} (hl : lo ≤ i)
    (hi : i < cap.toNat) (hm : slotsWfFrom cap lo m = true) :
    slotsWfFrom cap lo (writeSlot cap m i v) = true := by
  induction m generalizing lo with
  | nil => exact consSlot_wfFrom v hl hi rfl
  | cons e rest ih =>
    obtain ⟨k, u⟩ := e
    have hm' := hm
    simp only [slotsWfFrom, Bool.and_eq_true, decide_eq_true_eq] at hm'
    simp only [writeSlot]
    split
    · apply consSlot_wfFrom v hl hi
      simp only [slotsWfFrom, Bool.and_eq_true, decide_eq_true_eq]
      exact ⟨⟨⟨by omega, hm'.1.1.2⟩, hm'.1.2⟩, hm'.2⟩
    · split
      · rename_i hk; subst hk; exact consSlot_wfFrom v hl hi hm'.2
      · simp only [slotsWfFrom, Bool.and_eq_true, decide_eq_true_eq]
        exact ⟨hm'.1, ih (by omega) hm'.2⟩

/-- Every memory operation of the block keeps the canonical form: the one that writes is `writeSlot`. -/
theorem writeSlot_wf {i : Nat} (v : Slot) {m : List (Nat × Slot)} (hi : i < cap.toNat)
    (hm : Memory.wf cap m = true) : Memory.wf cap (writeSlot cap m i v) = true :=
  writeSlot_wfFrom v (Nat.zero_le _) hi hm

/-- The slot array after reset is canonical. -/
@[simp] theorem wf_nil : Memory.wf cap [] = true := rfl

theorem resetWith_memory_wf (req : U32) (n : Nat) :
    Memory.wf (State.resetWith req n).cap (State.resetWith req n).slots = true := rfl

/-- `State.slot?` finds a slot exactly inside the array. -/
theorem slot?_eq_some {s : State} {i : Nat} {sl : Slot} :
    s.slot? i = some sl ↔ i < s.cap.toNat ∧ readSlot s.cap s.slots i = sl := by
  unfold State.slot?; split <;> simp_all

theorem slot?_eq_none {s : State} {i : Nat} : s.slot? i = none ↔ s.cap.toNat ≤ i := by
  unfold State.slot?; split <;> simp_all

end Sys2Proof.Machine
end

