-- ==== Sys2Proof/Laws/Ops.lean ====
section
/-! SUPPORT. For each shared operation, once, everything it can do: if it answers a next state, then that state and
the conditions under which it does. -/

namespace Sys2Proof.Machine

open Sys2Proof.Safety

/-- A step that reaches the slot of `x[pos]` goes on only when there is that slot. -/
theorem withSlot_next {s t : State} {p : Port} {f : Nat → Slot → Result} (h : withSlot s p f = .next t) :
    slotIndex s.mask p.pos < s.cap.toNat ∧
      f (slotIndex s.mask p.pos) (readSlot s.cap s.slots (slotIndex s.mask p.pos)) = .next t := by
  unfold withSlot at h
  split at h
  · rename_i sl hs
    obtain ⟨hi, rfl⟩ := slot?_eq_some.mp hs
    exact ⟨hi, h⟩
  · cases h

theorem withSlot_of_lt {s : State} {p : Port} (f : Nat → Slot → Result)
    (h : slotIndex s.mask p.pos < s.cap.toNat) :
    withSlot s p f = f (slotIndex s.mask p.pos) (readSlot s.cap s.slots (slotIndex s.mask p.pos)) := by
  have : s.slot? (slotIndex s.mask p.pos) = some (readSlot s.cap s.slots (slotIndex s.mask p.pos)) :=
    slot?_eq_some.mpr ⟨h, rfl⟩
  simp [withSlot, this]

/-- One step of operation `i`: issue on an idle port, else the step of its phase, when `i` is latched. -/
theorem runStep_next {i : Instr} {label : Phase → State → Port → Result} {s t : State}
    (h : runStep i label s = .next t) :
    ∃ p, s.activePort? = some p ∧
      ((p.pc = .idle ∧ t = issue i s p) ∨ (p.pc ≠ .idle ∧ p.op = i.opcode ∧ label p.pc s p = .next t)) := by
  unfold runStep at h
  split at h
  · cases h
  · rename_i p hp
    refine ⟨p, hp, ?_⟩
    split at h
    · rename_i hpc; cases h; exact .inl ⟨hpc, rfl⟩
    · split at h
      · rename_i hpc hop; exact .inr ⟨hpc, hop, h⟩
      · simp [noStep] at h

/-- The successful CAS on `PUTC` (rule R55). -/
theorem casPutc_some {s s' : State} {e v : U32} (h : casPutc s e v = some s') :
    s.putc = e ∧ s' = { s with putc := v } := by
  unfold casPutc at h; split at h
  · rename_i he; cases h; exact ⟨he, rfl⟩
  · cases h

theorem casPutc_none {s : State} {e v : U32} : casPutc s e v = none ↔ s.putc ≠ e := by
  unfold casPutc; split <;> simp_all

/-- The successful CAS on `GETC` (rule R55). -/
theorem casGetc_some {s s' : State} {e v : U32} (h : casGetc s e v = some s') :
    s.getc = e ∧ s' = { s with getc := v } := by
  unfold casGetc at h; split at h
  · rename_i he; cases h; exact ⟨he, rfl⟩
  · cases h

theorem casGetc_none {s : State} {e v : U32} : casGetc s e v = none ↔ s.getc ≠ e := by
  unfold casGetc; split <;> simp_all

theorem min32_toNat (a b : U32) : (min32 a b).toNat = min a.toNat b.toNat := by
  unfold min32; split <;> omega

theorem est_toNat (cap gs ps : U32) : (est cap gs ps).toNat = min (sub32 ps gs).toNat cap.toNat :=
  min32_toNat _ _

/-- The estimate never exceeds `CAP` (rule R120). -/
theorem est_le (cap gs ps : U32) : (est cap gs ps).toNat ≤ cap.toNat := by
  rw [est_toNat]; omega

/-- Everything a port's turn can do to the state, step by step (rules R91, R119 to R124, R130 to R152, R163).
`p` is the record of the port before the step. -/
inductive PortMove (s : State) (p : Port) : State → Prop where
  | refused (hpc : p.pc = .idle) : PortMove s p (raiseIllegal s p)
  | issued (i : Instr) (hpc : p.pc = .idle) (hc : s.cfgErr = false) :
      PortMove s p (s.setPort
        { p with
          rsp := { p.rsp with rv := false }, op := i.opcode, arg := i.arg
          inItems := latchedItems i p.cmds, outItems := [], cmds := p.cmds.tail
          pc := if i.opcode = 0x06#8 then .capq else .snapG })
  | snappedG (hpc : p.pc = .snapG) (hop : snapshotOp p.op = true) :
      PortMove s p (s.setPort { p with gs := s.getc, pc := .snapP })
  | rejected (hpc : p.pc = .snapP) (hop : p.op = 0x01#8 ∨ p.op = 0x03#8) :
      PortMove s p (s.setPort ((p.snapshot s).respond (Rsp.rejected (p.snapshot s).occ)))
  | rejectedBatch (hpc : p.pc = .snapP) (hop : p.op = 0x02#8 ∨ p.op = 0x04#8) :
      PortMove s p (s.setPort
        (Port.respond { p.snapshot s with n := 0#32 } (Rsp.rejected (p.snapshot s).occ)))
  | admitted (n : U32) (hpc : p.pc = .snapP) (hop : producerOp p.op = true ∨ consumerOp p.op = true)
      (hn : admissionOk s.cap { p.snapshot s with n := n, pc := .reserve }) :
      PortMove s p (s.setPort { p.snapshot s with n := n, pc := .reserve })
  | answeredOcc (hpc : p.pc = .snapP) (hop : p.op = 0x05#8) :
      PortMove s p (s.setPort ((p.snapshot s).respond (Rsp.answer true 0#32 (p.snapshot s).occ [] [])))
  | answeredStat (hpc : p.pc = .snapP) (hop : p.op = 0x07#8) :
      PortMove s p (s.setPort ((p.snapshot s).respond
        (Rsp.answer true 0#32 (p.snapshot s).occ []
          [s.cap, s.mask, (p.snapshot s).ps, (p.snapshot s).gs])))
  | answeredCap (hpc : p.pc = .capq) (hop : p.op = 0x06#8) :
      PortMove s p (s.setPort (p.respond (Rsp.answer true 0#32 0#32 [] [s.cap])))
  | contended (hpc : p.pc = .reserve) (hop : producerOp p.op = true ∨ consumerOp p.op = true) :
      PortMove s p (s.setPort (p.respond (Rsp.rejected p.occ)))
  | reservedPut (n : U32) (hpc : p.pc = .reserve)
      (hop : (p.op = 0x01#8 ∧ n = 1#32) ∨ (p.op = 0x02#8 ∧ n = p.n)) (hps : s.putc = p.ps) :
      PortMove s p (State.setPort { s with putc := add32 p.ps n } (p.reserved p.ps))
  | reservedGet (n : U32) (hpc : p.pc = .reserve)
      (hop : (p.op = 0x03#8 ∧ n = 1#32) ∨ (p.op = 0x04#8 ∧ n = p.n)) (hgs : s.getc = p.gs) :
      PortMove s p (State.setPort { s with getc := add32 p.gs n } (p.reserved p.gs))
  | polledG (hpc : p.pc = .pollG) (hop : producerOp p.op = true ∨ consumerOp p.op = true)
      (hi : slotIndex s.mask p.pos < s.cap.toNat) :
      PortMove s p (s.setPort
        { p with sg := (readSlot s.cap s.slots (slotIndex s.mask p.pos)).gseq, pc := .pollP })
  | polledForWrite (hpc : p.pc = .pollP) (hop : producerOp p.op = true)
      (hi : slotIndex s.mask p.pos < s.cap.toNat) :
      PortMove s p (s.setPort
        { p with
          sp := (readSlot s.cap s.slots (slotIndex s.mask p.pos)).pseq
          pc := if polledForWrite p.pos p.sg (readSlot s.cap s.slots (slotIndex s.mask p.pos)).pseq
            then .xfer else .pollG })
  | polledForRead (hpc : p.pc = .pollP) (hop : consumerOp p.op = true)
      (hi : slotIndex s.mask p.pos < s.cap.toNat) :
      PortMove s p (s.setPort
        { p with
          sp := (readSlot s.cap s.slots (slotIndex s.mask p.pos)).pseq
          pc := if polledForRead s.cap p.pos p.sg
              (readSlot s.cap s.slots (slotIndex s.mask p.pos)).pseq
            then .xfer else .pollG })
  | stored (k : Nat) (hpc : p.pc = .xfer)
      (hop : (p.op = 0x01#8 ∧ k = 0) ∨ (p.op = 0x02#8 ∧ k = p.k.toNat))
      (hi : slotIndex s.mask p.pos < s.cap.toNat) :
      PortMove s p ((s.setSlot (slotIndex s.mask p.pos)
        ((readSlot s.cap s.slots (slotIndex s.mask p.pos)).withVal
          (some (itemAt p.inItems k)))).setPort { p with pc := .publish })
  | taken (before : List Item) (d : Item) (hpc : p.pc = .xfer)
      (hop : (p.op = 0x03#8 ∧ before = []) ∨ (p.op = 0x04#8 ∧ before = p.outItems))
      (hi : slotIndex s.mask p.pos < s.cap.toNat)
      (hd : (readSlot s.cap s.slots (slotIndex s.mask p.pos)).val = some d) :
      PortMove s p (s.setPort { p with outItems := before ++ [d], pc := .clear })
  | cleared (hpc : p.pc = .clear) (hop : consumerOp p.op = true)
      (hi : slotIndex s.mask p.pos < s.cap.toNat) :
      PortMove s p ((s.setSlot (slotIndex s.mask p.pos)
        ((readSlot s.cap s.slots (slotIndex s.mask p.pos)).withVal none)).setPort { p with pc := .publish })
  | publishedNext (hpc : p.pc = .publish) (hop : p.op = 0x02#8) (hk : p.k.toNat + 1 < p.n.toNat)
      (hi : slotIndex s.mask p.pos < s.cap.toNat) :
      PortMove s p ((s.setSlot (slotIndex s.mask p.pos)
        ((readSlot s.cap s.slots (slotIndex s.mask p.pos)).addPseq s.cap)).setPort p.nextItem)
  | publishedLast (n : U32) (hpc : p.pc = .publish)
      (hop : (p.op = 0x01#8 ∧ n = 1#32) ∨ (p.op = 0x02#8 ∧ n = p.n ∧ ¬ p.k.toNat + 1 < p.n.toNat))
      (hi : slotIndex s.mask p.pos < s.cap.toNat) :
      PortMove s p ((s.setSlot (slotIndex s.mask p.pos)
        ((readSlot s.cap s.slots (slotIndex s.mask p.pos)).addPseq s.cap)).setPort
          (p.respond (Rsp.answer true n (add32 p.occ n) [] [])))
  | releasedNext (hpc : p.pc = .publish) (hop : p.op = 0x04#8) (hk : p.k.toNat + 1 < p.n.toNat)
      (hi : slotIndex s.mask p.pos < s.cap.toNat) :
      PortMove s p ((s.setSlot (slotIndex s.mask p.pos)
        ((readSlot s.cap s.slots (slotIndex s.mask p.pos)).addGseq s.cap)).setPort p.nextItem)
  | releasedLast (n : U32) (hpc : p.pc = .publish)
      (hop : (p.op = 0x03#8 ∧ n = 1#32) ∨ (p.op = 0x04#8 ∧ n = p.n ∧ ¬ p.k.toNat + 1 < p.n.toNat))
      (hi : slotIndex s.mask p.pos < s.cap.toNat) :
      PortMove s p ((s.setSlot (slotIndex s.mask p.pos)
        ((readSlot s.cap s.slots (slotIndex s.mask p.pos)).addGseq s.cap)).setPort
          (p.respond (Rsp.answer true n (sub32 p.occ n) p.outItems [])))

theorem issue_portMove {i : Instr} {s : State} {p : Port} (hpc : p.pc = .idle) :
    PortMove s p (issue i s p) := by
  unfold issue
  split
  · exact .refused hpc
  · rename_i hc; exact .issued i hpc (by simpa using hc)

theorem putbCount_toNat {cap arg occ : U32} (h : occ.toNat ≤ cap.toNat) :
    (putbCount cap arg occ).toNat = min arg.toNat (cap.toNat - occ.toNat) := by
  unfold putbCount sub32
  rw [min32_toNat, BitVec.toNat_sub_of_le (by simpa [BitVec.le_def] using h)]

theorem getbCount_toNat (arg occ : U32) : (getbCount arg occ).toNat = min arg.toNat occ.toNat :=
  min32_toNat _ _

theorem ne_zero_toNat {a : U32} (h : a ≠ 0#32) : 1 ≤ a.toNat := by
  rcases Nat.eq_zero_or_pos a.toNat with h0 | h0
  · exact absurd (BitVec.eq_of_toNat_eq (by simpa using h0)) h
  · exact h0

theorem execPut_portMove {s t : State} {p : Port} (hop : p.op = 0x01#8) (h : putLabel p.pc s p = .next t) :
    PortMove s p t := by
  have hp : producerOp p.op = true := by simp [producerOp, hop]
  cases hpc : p.pc <;> simp only [hpc, putLabel] at h
  case snapG => cases h; exact .snappedG hpc (by simp [snapshotOp, hp])
  case snapP =>
    simp only [putSnapP] at h
    split at h
    · cases h; exact .rejected hpc (.inl hop)
    · rename_i hf
      cases h
      refine .admitted _ hpc (.inl hp) ?_
      have hf' : ¬ s.cap.toNat ≤ (p.snapshot s).occ.toNat + 1 := fun hle => hf (decide_eq_true hle)
      simp only [Port.snapshot_occ] at hf'
      simp [admissionOk, hop]
      omega
  case reserve =>
    simp only [reservePut] at h
    split at h
    · rename_i hs
      obtain ⟨he, rfl⟩ := casPutc_some hs
      cases h; exact .reservedPut _ hpc (.inl ⟨hop, rfl⟩) he
    · cases h; exact .contended hpc (.inl hp)
  case pollG => obtain ⟨hi, h⟩ := withSlot_next h; cases h; exact .polledG hpc (.inl hp) hi
  case pollP => obtain ⟨hi, h⟩ := withSlot_next h; cases h; exact .polledForWrite hpc hp hi
  case xfer => obtain ⟨hi, h⟩ := withSlot_next h; cases h; exact .stored _ hpc (.inl ⟨hop, rfl⟩) hi
  case publish =>
    simp only [putPublish, publishPut] at h
    obtain ⟨hi, h⟩ := withSlot_next h; cases h; exact .publishedLast _ hpc (.inl ⟨hop, rfl⟩) hi
  all_goals simp [noStep] at h

theorem execPutb_portMove {s t : State} {p : Port} (hop : p.op = 0x02#8)
    (h : putbLabel p.pc s p = .next t) : PortMove s p t := by
  have hp : producerOp p.op = true := by simp [producerOp, hop]
  cases hpc : p.pc <;> simp only [hpc, putbLabel] at h
  case snapG => cases h; exact .snappedG hpc (by simp [snapshotOp, hp])
  case snapP =>
    simp only [putbSnapP] at h
    have hle := est_le s.cap p.gs s.putc
    split at h
    · cases h; exact .rejectedBatch hpc (.inl hop)
    · rename_i hn
      cases h
      refine .admitted _ hpc (.inl hp) ?_
      have h1 := ne_zero_toNat hn
      have h2 := putbCount_toNat (arg := p.arg) hle
      simp [admissionOk, hop] at h1 h2 ⊢
      omega
  case reserve =>
    simp only [reservePut] at h
    split at h
    · rename_i hs
      obtain ⟨he, rfl⟩ := casPutc_some hs
      cases h; exact .reservedPut _ hpc (.inr ⟨hop, rfl⟩) he
    · cases h; exact .contended hpc (.inl hp)
  case pollG => obtain ⟨hi, h⟩ := withSlot_next h; cases h; exact .polledG hpc (.inl hp) hi
  case pollP => obtain ⟨hi, h⟩ := withSlot_next h; cases h; exact .polledForWrite hpc hp hi
  case xfer => obtain ⟨hi, h⟩ := withSlot_next h; cases h; exact .stored _ hpc (.inr ⟨hop, rfl⟩) hi
  case publish =>
    simp only [putbPublish, publishPut] at h
    obtain ⟨hi, h⟩ := withSlot_next h
    cases h
    by_cases hk : p.k.toNat + 1 < p.n.toNat
    · simp only [moreItems, hk, decide_true, if_true]; exact .publishedNext hpc hop hk hi
    · simp only [moreItems, hk, decide_false, Bool.false_eq_true, if_false]
      exact .publishedLast _ hpc (.inr ⟨hop, rfl, hk⟩) hi
  all_goals simp [noStep] at h

theorem execGet_portMove {s t : State} {p : Port} (hop : p.op = 0x03#8) (h : getLabel p.pc s p = .next t) :
    PortMove s p t := by
  have hp : consumerOp p.op = true := by simp [consumerOp, hop]
  cases hpc : p.pc <;> simp only [hpc, getLabel] at h
  case snapG => cases h; exact .snappedG hpc (by simp [snapshotOp, hp])
  case snapP =>
    simp only [getSnapP] at h
    split at h
    · cases h; exact .rejected hpc (.inr hop)
    · rename_i hf
      cases h
      refine .admitted _ hpc (.inr hp) ?_
      simp [admissionOk, hop] at hf ⊢
      omega
  case reserve =>
    simp only [reserveGet] at h
    split at h
    · rename_i hs
      obtain ⟨he, rfl⟩ := casGetc_some hs
      cases h; exact .reservedGet _ hpc (.inl ⟨hop, rfl⟩) he
    · cases h; exact .contended hpc (.inr hp)
  case pollG => obtain ⟨hi, h⟩ := withSlot_next h; cases h; exact .polledG hpc (.inr hp) hi
  case pollP => obtain ⟨hi, h⟩ := withSlot_next h; cases h; exact .polledForRead hpc hp hi
  case xfer =>
    obtain ⟨hi, h⟩ := withSlot_next h
    split at h
    · rename_i d hd; cases h; exact .taken _ d hpc (.inl ⟨hop, rfl⟩) hi hd
    · cases h
  case clear => obtain ⟨hi, h⟩ := withSlot_next h; cases h; exact .cleared hpc hp hi
  case publish =>
    simp only [getPublish, publishGet] at h
    obtain ⟨hi, h⟩ := withSlot_next h; cases h; exact .releasedLast _ hpc (.inl ⟨hop, rfl⟩) hi
  all_goals simp [noStep] at h

theorem execGetb_portMove {s t : State} {p : Port} (hop : p.op = 0x04#8)
    (h : getbLabel p.pc s p = .next t) : PortMove s p t := by
  have hp : consumerOp p.op = true := by simp [consumerOp, hop]
  cases hpc : p.pc <;> simp only [hpc, getbLabel] at h
  case snapG => cases h; exact .snappedG hpc (by simp [snapshotOp, hp])
  case snapP =>
    simp only [getbSnapP] at h
    split at h
    · cases h; exact .rejectedBatch hpc (.inr hop)
    · rename_i hn
      cases h
      refine .admitted _ hpc (.inr hp) ?_
      have h1 := ne_zero_toNat hn
      have h2 := getbCount_toNat p.arg (p.snapshot s).occ
      simp [admissionOk, hop] at h1 h2 ⊢
      omega
  case reserve =>
    simp only [reserveGet] at h
    split at h
    · rename_i hs
      obtain ⟨he, rfl⟩ := casGetc_some hs
      cases h; exact .reservedGet _ hpc (.inr ⟨hop, rfl⟩) he
    · cases h; exact .contended hpc (.inr hp)
  case pollG => obtain ⟨hi, h⟩ := withSlot_next h; cases h; exact .polledG hpc (.inr hp) hi
  case pollP => obtain ⟨hi, h⟩ := withSlot_next h; cases h; exact .polledForRead hpc hp hi
  case xfer =>
    obtain ⟨hi, h⟩ := withSlot_next h
    split at h
    · rename_i d hd; cases h; exact .taken _ d hpc (.inr ⟨hop, rfl⟩) hi hd
    · cases h
  case clear => obtain ⟨hi, h⟩ := withSlot_next h; cases h; exact .cleared hpc hp hi
  case publish =>
    simp only [getbPublish, publishGet] at h
    obtain ⟨hi, h⟩ := withSlot_next h
    cases h
    by_cases hk : p.k.toNat + 1 < p.n.toNat
    · simp only [moreItems, hk, decide_true, if_true]; exact .releasedNext hpc hop hk hi
    · simp only [moreItems, hk, decide_false, Bool.false_eq_true, if_false]
      exact .releasedLast _ hpc (.inr ⟨hop, rfl, hk⟩) hi
  all_goals simp [noStep] at h

theorem execOcc_portMove {s t : State} {p : Port} (hop : p.op = 0x05#8) (h : occLabel p.pc s p = .next t) :
    PortMove s p t := by
  cases hpc : p.pc <;> simp only [hpc, occLabel] at h
  case snapG => cases h; exact .snappedG hpc (by simp [snapshotOp, hop])
  case snapP => cases h; exact .answeredOcc hpc hop
  all_goals simp [noStep] at h

theorem execCap_portMove {s t : State} {p : Port} (hop : p.op = 0x06#8) (h : capLabel p.pc s p = .next t) :
    PortMove s p t := by
  cases hpc : p.pc <;> simp only [hpc, capLabel] at h
  case capq => cases h; exact .answeredCap hpc hop
  all_goals simp [noStep] at h

theorem execStat_portMove {s t : State} {p : Port} (hop : p.op = 0x07#8)
    (h : statLabel p.pc s p = .next t) : PortMove s p t := by
  cases hpc : p.pc <;> simp only [hpc, statLabel] at h
  case snapG => cases h; exact .snappedG hpc (by simp [snapshotOp, hop])
  case snapP => cases h; exact .answeredStat hpc hop
  all_goals simp [noStep] at h

/-- Everything `exec` can do, once: a next state is one of the moves of the port that has the turn. -/
theorem exec_next {i : Instr} {s t : State} (h : exec i s = .next t) :
    ∃ p, s.activePort? = some p ∧ PortMove s p t := by
  cases i <;> simp only [exec, execPut, execPutb, execGet, execGetb, execOcc, execCap, execStat] at h <;>
    obtain ⟨p, hp, ⟨hpc, rfl⟩ | ⟨-, hop, h⟩⟩ := runStep_next h <;>
    refine ⟨p, hp, ?_⟩
  case put.inl => exact issue_portMove hpc
  case putb.inl => exact issue_portMove hpc
  case get.inl => exact issue_portMove hpc
  case getb.inl => exact issue_portMove hpc
  case occ.inl => exact issue_portMove hpc
  case cap.inl => exact issue_portMove hpc
  case stat.inl => exact issue_portMove hpc
  case put.inr => exact execPut_portMove hop h
  case putb.inr => exact execPutb_portMove hop h
  case get.inr => exact execGet_portMove hop h
  case getb.inr => exact execGetb_portMove hop h
  case occ.inr => exact execOcc_portMove hop h
  case cap.inr => exact execCap_portMove hop h
  case stat.inr => exact execStat_portMove hop h

end Sys2Proof.Machine
end

