-- ==== Sys2Proof/Laws/PerInstr.lean ====
section
/-! SUPPORT. The family `EncodedFields`: the three fields of a command's word (30_encoding.md rule R80), one lemma per
command. -/

namespace Sys2Proof.Laws

theorem wordOp_append (op : BitVec 8) (arg : U32) : wordOp (op ++ 0#24 ++ arg) = op := by
  apply BitVec.eq_of_getLsbD_eq
  intro i hi
  have h1 : ¬ 56 + i < 32 := by omega
  have h2 : ¬ 56 + i - 32 < 24 := by omega
  have h3 : 56 + i - 32 - 24 = i := by omega
  rw [wordOp, BitVec.getLsbD_extractLsb', BitVec.getLsbD_append, BitVec.getLsbD_append, if_neg h1, if_neg h2, h3,
    decide_eq_true hi, Bool.true_and]

theorem wordRsv_append (op : BitVec 8) (arg : U32) : wordRsv (op ++ 0#24 ++ arg) = 0#24 := by
  apply BitVec.eq_of_getLsbD_eq
  intro i hi
  have h1 : ¬ 32 + i < 32 := by omega
  have h2 : 32 + i - 32 < 24 := by omega
  rw [wordRsv, BitVec.getLsbD_extractLsb', BitVec.getLsbD_append, BitVec.getLsbD_append, if_neg h1, if_pos h2]
  simp

theorem wordArg_append (op : BitVec 8) (arg : U32) : wordArg (op ++ 0#24 ++ arg) = arg := by
  apply BitVec.eq_of_getLsbD_eq
  intro i hi
  rw [wordArg, BitVec.getLsbD_extractLsb', BitVec.getLsbD_append, if_pos (by omega), decide_eq_true hi, Bool.true_and,
    Nat.zero_add]

/-- The word of the command carries its `OP`, a zero `RSV` and its `ARG` (rules R80, R85). -/
def EncodedFields.Statement (i : Instr) : Prop :=
  wordOp (encode i) = i.opcode ∧ wordRsv (encode i) = 0#24 ∧ wordArg (encode i) = i.arg

theorem encodedFields (i : Instr) : EncodedFields.Statement i :=
  ⟨wordOp_append _ _, wordRsv_append _ _, wordArg_append _ _⟩

theorem EncodedFields.put : EncodedFields.Statement .put := encodedFields _
theorem EncodedFields.putb (arg : U32) : EncodedFields.Statement (.putb arg) := encodedFields _
theorem EncodedFields.get : EncodedFields.Statement .get := encodedFields _
theorem EncodedFields.getb (arg : U32) : EncodedFields.Statement (.getb arg) := encodedFields _
theorem EncodedFields.occ : EncodedFields.Statement .occ := encodedFields _
theorem EncodedFields.cap : EncodedFields.Statement .cap := encodedFields _
theorem EncodedFields.stat : EncodedFields.Statement .stat := encodedFields _

end Sys2Proof.Laws
end

