-- ==== Sys2Proof/Laws/Step.lean ====
section
/-! SUPPORT. Everything one turn of the machine can do. -/

namespace Sys2Proof.Machine

/-- The state in which the port of this turn takes its step. -/
def turnState (s : State) (i : Nat) : State := { afterTurn s with active := i }

@[simp] theorem turnState_cap (s : State) (i : Nat) : (turnState s i).cap = s.cap := afterTurn_cap s
@[simp] theorem turnState_mask (s : State) (i : Nat) : (turnState s i).mask = s.mask := afterTurn_mask s
@[simp] theorem turnState_cfgErr (s : State) (i : Nat) : (turnState s i).cfgErr = s.cfgErr := afterTurn_cfgErr s
@[simp] theorem turnState_putc (s : State) (i : Nat) : (turnState s i).putc = s.putc := afterTurn_putc s
@[simp] theorem turnState_getc (s : State) (i : Nat) : (turnState s i).getc = s.getc := afterTurn_getc s
@[simp] theorem turnState_slots (s : State) (i : Nat) : (turnState s i).slots = s.slots := afterTurn_slots s
@[simp] theorem turnState_ports (s : State) (i : Nat) : (turnState s i).ports = s.ports := afterTurn_ports s
@[simp] theorem turnState_active (s : State) (i : Nat) : (turnState s i).active = i := rfl

/-- One turn: a reset event, a turn in which the port waits, or a move of the port that has the turn. -/
theorem step_next {s t : State} (h : step s = .next t) :
    (∃ req, nextTurn s = .reset req ∧ t = resetEvent req (afterTurn s)) ∨
    (∃ i p, nextTurn s = .port i ∧ s.ports[i]? = some p ∧ p.pc = .idle ∧ p.cmds = [] ∧
      t = turnState s i) ∨
    (∃ i p, nextTurn s = .port i ∧ s.ports[i]? = some p ∧ PortMove (turnState s i) p t) := by
  unfold step at h
  split at h
  · rename_i req hn; cases h; exact .inl ⟨req, hn, rfl⟩
  · rename_i i hn
    change stepPort (turnState s i) = .next t at h
    refine .inr ?_
    unfold stepPort at h
    split at h
    · cases h
    · rename_i hf
      cases h
      unfold fetch at hf
      split at hf
      · cases hf
      · rename_i p hp
        by_cases hpc : p.pc = .idle
        · simp only [hpc, if_true] at hf
          split at hf
          · rename_i hc; exact .inl ⟨i, p, hn, by simpa [State.activePort?] using hp, hpc, hc, rfl⟩
          · split at hf <;> cases hf
        · simp only [hpc, if_false] at hf
          split at hf <;> cases hf
    · rename_i hf
      cases h
      unfold fetch at hf
      split at hf
      · cases hf
      · rename_i p hp
        refine .inr ⟨i, p, hn, by simpa [State.activePort?] using hp, ?_⟩
        have hpc : p.pc = .idle := by
          by_contra hne
          simp only [hne, if_false] at hf
          split at hf <;> cases hf
        have : refuseWord (turnState s i) = raiseIllegal (turnState s i) p := by
          simp only [refuseWord, hp]
        rw [this]; exact .refused hpc
    · obtain ⟨p, hp, hm⟩ := exec_next h
      exact .inr ⟨i, p, hn, by simpa [State.activePort?] using hp, hm⟩
    · simp [noStep] at h

end Sys2Proof.Machine
end

