-- ==== Sys2Proof/Laws/Protocol.lean ====
section
/-! SUPPORT. The protocol invariant of rule R44 over the counts that the registers hold modulo 2^32: what each kind of
step does to it (41_slot_protocol.md). Each lemma takes one move of `PortMove`. -/

namespace Sys2Proof.Safety

open Sys2Proof.Machine

/-! ### Capacities and residues -/

/-- A legal capacity is at least 1 (rule R21). -/
theorem capacity_pos {cap mask} (h : capacityOk cap mask) : 1 ≤ cap.toNat := by
  obtain ⟨⟨j, _, hc⟩, _⟩ := h; rw [hc]; exact Nat.one_le_two_pow

/-- With a legal capacity the slot index is the remainder modulo `CAP` (rule R52). -/
theorem slotIndex_eq_mod {cap mask pos} (h : capacityOk cap mask) : slotIndex mask pos = pos.toNat % cap.toNat := by
  obtain ⟨⟨j, hj, hc⟩, rfl⟩ := h
  have h1 : 1 ≤ cap.toNat := by rw [hc]; exact Nat.one_le_two_pow
  have : (sub32 cap 1#32).toNat = 2 ^ j - 1 := by
    unfold sub32; rw [BitVec.toNat_sub_of_le (by simpa [BitVec.le_def] using h1)]; simp [hc]
  unfold slotIndex; rw [BitVec.toNat_and, this, Nat.and_two_pow_sub_one_eq_mod, hc]

/-- Two numbers of one residue class are at least the modulus apart. -/
theorem add_le_of_mod_eq {C a b i : Nat} (ha : a % C = i) (hb : b % C = i) (h : a < b) : a + C ≤ b := by
  have h1 := Nat.div_add_mod a C
  have h2 := Nat.div_add_mod b C
  have : a / C < b / C := by
    by_contra hn
    have := Nat.mul_le_mul_left C (Nat.not_lt.mp hn)
    omega
  have := Nat.mul_le_mul_left C (Nat.succ_le_of_lt this)
  rw [Nat.mul_succ] at this
  omega

/-- `sub32` without a borrow. -/
theorem sub32_toNat {a b : U32} (h : b.toNat ≤ a.toNat) : (sub32 a b).toNat = a.toNat - b.toNat := by
  unfold sub32; exact BitVec.toNat_sub_of_le (by simpa [BitVec.le_def] using h)

/-- `add32` without a carry. -/
theorem add32_toNat {a b : U32} (h : a.toNat + b.toNat < 2 ^ 32) : (add32 a b).toNat = a.toNat + b.toNat := by
  unfold add32; rw [BitVec.toNat_add]; exact Nat.mod_eq_of_lt h

/-! ### Counts modulo 2^32 (rule R122) -/

@[simp] theorem low_toNat (n : Nat) : (low n).toNat = n % 2 ^ 32 := rfl

/-- Counts less than 2^32 apart are told apart by their registers. -/
theorem low_inj {a b : Nat} (h : low a = low b) (h1 : a < b + 2 ^ 32) (h2 : b < a + 2 ^ 32) : a = b := by
  have := congrArg BitVec.toNat h
  simp only [low_toNat] at this; omega

/-- `add32` counts on. -/
theorem add32_low (a : Nat) (x : U32) : add32 (low a) x = low (a + x.toNat) := by
  apply BitVec.eq_of_toNat_eq; simp [add32, low]

/-- `sub32` counts the distance, when it is below 2^32. -/
theorem sub32_low {a b : Nat} (h : b ≤ a) (h' : a < b + 2 ^ 32) : (sub32 (low a) (low b)).toNat = a - b := by
  simp only [sub32, BitVec.toNat_sub, low_toNat]; omega

/-- A position's slot is the remainder of its count (rules R110, R122(b)). -/
theorem slotIndex_low {cap mask : U32} (h : capacityOk cap mask) (n : Nat) :
    slotIndex mask (low n) = n % cap.toNat := by
  rw [slotIndex_eq_mod h, low_toNat]
  obtain ⟨⟨j, hj, hc⟩, _⟩ := h
  rw [hc]; exact Nat.mod_mod_of_dvd _ (Nat.pow_dvd_pow 2 (by omega))

/-! ### What the ports hold, after one port's record is replaced -/

section held

variable {u u' : Unwrapped} {s t : State} {a : Nat} {p p' : Port}

/-- Some port of the list: the given one, or another. -/
theorem exists_port_split (hp : s.ports[a]? = some p) (F : Nat → Port → Prop) :
    (∃ i r, s.ports[i]? = some r ∧ F i r) ↔ F a p ∨ ∃ i r, i ≠ a ∧ s.ports[i]? = some r ∧ F i r := by
  constructor
  · rintro ⟨i, r, hr, hf⟩
    by_cases e : i = a
    · subst e; rw [hp] at hr; cases hr; exact .inl hf
    · exact .inr ⟨i, r, e, hr, hf⟩
  · rintro (hf | ⟨i, r, _, hr, hf⟩)
    · exact ⟨a, p, hp, hf⟩
    · exact ⟨i, r, hr, hf⟩

/-- Some port of the list once one record is replaced: the new one, or another. -/
theorem exists_port_set (hp : s.ports[a]? = some p) (ht : t.ports = s.ports.set a p') (F : Nat → Port → Prop) :
    (∃ i r, t.ports[i]? = some r ∧ F i r) ↔ F a p' ∨ ∃ i r, i ≠ a ∧ s.ports[i]? = some r ∧ F i r := by
  have ha := (List.getElem?_eq_some_iff.mp hp).1
  have hp' : t.ports[a]? = some p' := by simp [ht, ha]
  rw [exists_port_split hp']
  have : ∀ i r, i ≠ a → (t.ports[i]? = some r ↔ s.ports[i]? = some r) := by
    intro i r hi; rw [ht, List.getElem?_set_ne (Ne.symm hi)]
  constructor
  · rintro (h | ⟨i, r, hi, hr, hf⟩)
    · exact .inl h
    · exact .inr ⟨i, r, hi, (this i r hi).mp hr, hf⟩
  · rintro (h | ⟨i, r, hi, hr, hf⟩)
    · exact .inl h
    · exact .inr ⟨i, r, hi, (this i r hi).mpr hr, hf⟩

/-- A relation over ports and their positions, once one record and its position are replaced: what it was, if it is for
that port what it was. -/
theorem exists_port_same (hp : s.ports[a]? = some p) (ht : t.ports = s.ports.set a p')
    (F G : Nat → Port → Prop) (own : F a p' ↔ G a p) (other : ∀ j r, j ≠ a → (F j r ↔ G j r)) :
    (∃ i r, t.ports[i]? = some r ∧ F i r) ↔ (∃ i r, s.ports[i]? = some r ∧ G i r) := by
  rw [exists_port_set hp ht, exists_port_split hp, own]
  refine or_congr Iff.rfl ⟨?_, ?_⟩ <;> rintro ⟨i, r, hi, hr, hf⟩
  · exact ⟨i, r, hi, hr, (other i r hi).mp hf⟩
  · exact ⟨i, r, hi, hr, (other i r hi).mpr hf⟩

theorem holdsPut_congr {j : Nat} (h : u'.pos j = u.pos j) (r : Port) (q : Nat) : u'.holdsPut j r q ↔ u.holdsPut j r q := by
  simp only [Unwrapped.holdsPut, h]

theorem holdsGet_congr {j : Nat} (h : u'.pos j = u.pos j) (r : Port) (q : Nat) : u'.holdsGet j r q ↔ u.holdsGet j r q := by
  simp only [Unwrapped.holdsGet, h]

theorem not_holdsPut (h : Port.holding p = false) (i q : Nat) : ¬ u.holdsPut i p q := by simp [Unwrapped.holdsPut, h]
theorem not_holdsGet (h : Port.holding p = false) (i q : Nat) : ¬ u.holdsGet i p q := by simp [Unwrapped.holdsGet, h]

theorem consumerOp_of_producerOp {op : BitVec 8} (h : producerOp op = true) : consumerOp op = false := by
  revert h; simp only [producerOp, consumerOp, Bool.or_eq_true, decide_eq_true_eq]
  rintro (rfl | rfl) <;> rfl

theorem producerOp_of_consumerOp {op : BitVec 8} (h : consumerOp op = true) : producerOp op = false := by
  revert h; simp only [producerOp, consumerOp, Bool.or_eq_true, decide_eq_true_eq]
  rintro (rfl | rfl) <;> rfl

/-- What a slot agrees with depends only on the slot, its counts, the cursors' counts and what the ports hold. -/
theorem slotAt_congr {k : Nat} (h : SlotAt u s k) (hcap : t.cap = s.cap)
    (hslot : readSlot t.cap t.slots k = readSlot s.cap s.slots k)
    (hg : u'.gseq k = u.gseq k) (hw : u'.pseq k = u.pseq k) (hP : u'.putc = u.putc) (hG : u'.getc = u.getc)
    (put : ∀ q, u'.heldPut t q ↔ u.heldPut s q) (get : ∀ q, u'.heldGet t q ↔ u.heldGet s q)
    (fill : u.fillsPut s (u.gseq k) → u'.fillsPut t (u.gseq k))
    (drain : u.drainsGet s (u.gseq k) → u'.drainsGet t (u.gseq k)) : SlotAt u' t k := by
  constructor <;> (try rw [hslot]) <;> simp only [hcap, hP, hG, hg, hw, put, get]
  · exact h.gseqLow
  · exact h.pseqLow
  · exact h.residue
  · exact h.gap
  · exact h.pseqBound
  · exact h.gseqBound
  · exact h.putCover
  · exact h.putAhead
  · exact h.getCover
  · exact h.getAhead
  · exact fun a b => fill (h.filled a b)
  · exact fun a b => drain (h.drained a b)

end held

/-! ### What the invariant says of one port -/

section facts

variable {u : Unwrapped} {s : State} {a b : Nat} {p r : Port}

/-- A port inside a handshake runs a producer or a consumer command (rule R34). -/
theorem family_of_holding (h : labelExists p.op p.pc = true) (hh : Port.holding p = true) :
    producerOp p.op = true ∨ consumerOp p.op = true := by
  cases hpc : p.pc <;> simp [hpc, labelExists, Port.holding] at h hh <;> tauto

/-- A port inside a handshake has a position left (rule R111). -/
theorem PortAt.remaining_pos (h : PortAt u s a p) (hh : Port.holding p = true) : 1 ≤ Port.remaining p := by
  unfold Port.remaining
  split
  · rename_i ho
    have := h.batch hh (by simpa using ho); omega
  · omega

/-- A producer inside a handshake holds its `x[pos]` (rule R111). -/
theorem PortAt.holdsPut_pos (h : PortAt u s a p) (ho : producerOp p.op = true) (hh : Port.holding p = true) :
    u.holdsPut a p (u.pos a) :=
  ⟨ho, hh, le_refl _, by have := h.remaining_pos hh; omega⟩

/-- A consumer inside a handshake holds its `x[pos]` (rule R111). -/
theorem PortAt.holdsGet_pos (h : PortAt u s a p) (ho : consumerOp p.op = true) (hh : Port.holding p = true) :
    u.holdsGet a p (u.pos a) :=
  ⟨ho, hh, le_refl _, by have := h.remaining_pos hh; omega⟩

/-- A held position is reserved: the put cursor has passed it (rule R38). -/
theorem ProtocolAt.pos_le (h : ProtocolAt u s) (hp : s.ports[a]? = some p) (hh : Port.holding p = true) :
    u.pos a ≤ u.putc := by
  have hP := h.ports a p hp
  have := hP.remaining_pos hh
  have := h.occupancy
  rcases family_of_holding hP.phase hh with ho | ho
  · have := hP.putReserved hh ho; omega
  · have := hP.getReserved hh ho; omega

/-- The slot of `x[pos]` (rule R110). -/
theorem ProtocolAt.slotIndex_pos (h : ProtocolAt u s) (hp : s.ports[a]? = some p) (hh : Port.holding p = true) :
    slotIndex s.mask p.pos = u.pos a % s.cap.toNat := by
  rw [((h.ports a p hp).position hh).1, slotIndex_low h.capacity]

/-- There is that slot. -/
theorem ProtocolAt.slot_lt (h : ProtocolAt u s) (n : Nat) : n % s.cap.toNat < s.cap.toNat :=
  Nat.mod_lt _ (capacity_pos h.capacity)

/-- Two producers never hold the same position (rule R44(e)). -/
theorem ProtocolAt.put_pos_ne (h : ProtocolAt u s) (hp : s.ports[a]? = some p) (hr : s.ports[b]? = some r) (hab : b ≠ a)
    (ho : producerOp p.op = true) (ho' : producerOp r.op = true) (hh : Port.holding p = true)
    (hh' : Port.holding r = true) : u.pos b ≠ u.pos a := by
  intro e
  have h1 := (h.ports a p hp).holdsPut_pos ho hh
  have h2 := (h.ports b r hr).holdsPut_pos ho' hh'
  rw [e] at h2; exact h.putApart b a r p hr hp hab _ h2 h1

/-- Two consumers never hold the same position (rule R44(e)). -/
theorem ProtocolAt.get_pos_ne (h : ProtocolAt u s) (hp : s.ports[a]? = some p) (hr : s.ports[b]? = some r) (hab : b ≠ a)
    (ho : consumerOp p.op = true) (ho' : consumerOp r.op = true) (hh : Port.holding p = true)
    (hh' : Port.holding r = true) : u.pos b ≠ u.pos a := by
  intro e
  have h1 := (h.ports a p hp).holdsGet_pos ho hh
  have h2 := (h.ports b r hr).holdsGet_pos ho' hh'
  rw [e] at h2; exact h.getApart b a r p hr hp hab _ h2 h1

/-- The read sequence count of the slot of a held position is at most that position, and less than 2^32 behind it: its
register tells them apart (rule R122). -/
theorem ProtocolAt.gseq_window (h : ProtocolAt u s) (hp : s.ports[a]? = some p) (hh : Port.holding p = true) :
    u.gseq (u.pos a % s.cap.toNat) ≤ u.pos a ∧ u.pos a < u.gseq (u.pos a % s.cap.toNat) + 2 ^ 32 := by
  have hP := h.ports a p hp
  have H := h.slots _ (h.slot_lt (u.pos a))
  have hle := h.pos_le hp hh
  have hC : s.cap.toNat < 2 ^ 32 := s.cap.isLt
  have le : u.gseq (u.pos a % s.cap.toNat) ≤ u.pos a := by
    rcases family_of_holding hP.phase hh with ho | ho
    · have := H.putAhead _ rfl ⟨a, p, hp, hP.holdsPut_pos ho hh⟩
      rcases H.gap with e | e <;> omega
    · exact H.getAhead _ rfl ⟨a, p, hp, hP.holdsGet_pos ho hh⟩
  refine ⟨le, ?_⟩
  by_cases hg : u.gseq (u.pos a % s.cap.toNat) ≤ u.getc
  · obtain ⟨i, r, hr, ho, hrh, h1, h2⟩ := H.getCover _ H.residue (le_refl _) hg
    have := ((h.ports i r hr).position hrh).2
    omega
  · have := h.occupancy; omega

/-- A poll whose sample of `GSEQ` equals `x[pos]` sampled that count, not an older lap's (rule R122). -/
theorem ProtocolAt.gseq_eq (h : ProtocolAt u s) (hp : s.ports[a]? = some p) (hh : Port.holding p = true)
    (e : (readSlot s.cap s.slots (u.pos a % s.cap.toNat)).gseq = p.pos) : u.gseq (u.pos a % s.cap.toNat) = u.pos a := by
  obtain ⟨h1, h2⟩ := h.gseq_window hp hh
  rw [(h.slots _ (h.slot_lt _)).gseqLow, ((h.ports a p hp).position hh).1] at e
  exact low_inj e (by omega) h2

/-- With `GSEQ` counted, the poll of `PSEQ` is exact too: equal to `GSEQ`. -/
theorem SlotAt.pseq_eq {k : Nat} (H : SlotAt u s k) (hc : capacityOk s.cap s.mask)
    (e : (readSlot s.cap s.slots k).pseq = low (u.gseq k)) : u.pseq k = u.gseq k := by
  have := capacity_pos hc
  have hC : s.cap.toNat < 2 ^ 32 := s.cap.isLt
  rcases H.gap with g | g
  · exact g
  · rw [H.pseqLow, g] at e
    have := low_inj e (by omega) (by omega); omega

/-- With `GSEQ` counted, the poll of `PSEQ` is exact too: one lap ahead. -/
theorem SlotAt.pseq_eq_add {k : Nat} (H : SlotAt u s k) (hc : capacityOk s.cap s.mask)
    (e : (readSlot s.cap s.slots k).pseq = add32 (low (u.gseq k)) s.cap) : u.pseq k = u.gseq k + s.cap.toNat := by
  have := capacity_pos hc
  have hC : s.cap.toNat < 2 ^ 32 := s.cap.isLt
  rcases H.gap with g | g
  · rw [H.pseqLow, g, add32_low] at e
    have := low_inj e (by omega) (by omega); omega
  · exact g

/-- `PSEQ` stays in its slot's residue class (rule R44(c)). -/
theorem SlotAt.pseq_residue {k : Nat} (H : SlotAt u s k) : u.pseq k % s.cap.toNat = k := by
  rcases H.gap with e | e <;> rw [e]
  · exact H.residue
  · rw [Nat.add_mod_right]; exact H.residue

/-- Inside a handshake proper: XFER, CLEAR or PUBLISH. -/
def Port.inSlot (p : Port) : Prop := p.pc = .xfer ∨ p.pc = .clear ∨ p.pc = .publish

theorem Port.inSlot.holding (h : Port.inSlot p) : Port.holding p = true := by
  rcases h with e | e | e <;> simp [Port.holding, e]

/-- The slot of a port at XFER, CLEAR or PUBLISH is at that port's position (rules R112, R113). -/
theorem PortAt.gseq_of_inSlot (h : PortAt u s a p) (hi : Port.inSlot p) :
    u.gseq (u.pos a % s.cap.toNat) = u.pos a ∧
      u.pseq (u.pos a % s.cap.toNat) = if producerOp p.op then u.pos a else u.pos a + s.cap.toNat := by
  have hk := h.handshake hi.holding
  rcases family_of_holding h.phase hi.holding with ho | ho
  · have : p.pc ≠ .clear := by
      intro e; have := h.phase; rw [e] at this
      simp only [labelExists, consumerOp_of_producerOp ho] at this; cases this
    have := hk.put ho (by unfold Port.inSlot at hi; tauto)
    simpa [ho] using this
  · simpa [producerOp_of_consumerOp ho] using hk.get ho hi

/-- At most one port is at XFER, CLEAR or PUBLISH of a slot, on the counts (rule R44(e)). -/
theorem ProtocolAt.inSlot_alone (h : ProtocolAt u s) (hp : s.ports[a]? = some p) (hr : s.ports[b]? = some r) (hab : b ≠ a)
    (hi : Port.inSlot p) (hi' : Port.inSlot r) : u.pos b % s.cap.toNat ≠ u.pos a % s.cap.toNat := by
  intro e
  have k1 := (h.ports a p hp).gseq_of_inSlot hi
  have k2 := (h.ports b r hr).gseq_of_inSlot hi'
  rw [e] at k2
  have hpos : u.pos b = u.pos a := k2.1.symm.trans k1.1
  have hC := capacity_pos h.capacity
  have k3 := k1.2.symm.trans k2.2
  rcases family_of_holding (h.ports a p hp).phase hi.holding with o1 | o1 <;>
    rcases family_of_holding (h.ports b r hr).phase hi'.holding with o2 | o2
  · exact h.put_pos_ne hp hr hab o1 o2 hi.holding hi'.holding hpos
  · simp only [o1, producerOp_of_consumerOp o2, if_true] at k3; simp at k3; omega
  · simp only [o2, producerOp_of_consumerOp o1, if_true] at k3; simp at k3; omega
  · exact h.get_pos_ne hp hr hab o1 o2 hi.holding hi'.holding hpos

/-- What a port that is still polling knows. -/
theorem HandshakeAt.of_polling {cap : U32} {x g w : Nat} {sl : Slot} (hn : ¬ Port.inSlot p)
    (polled : p.pc = .pollP → p.sg = p.pos → g = x) : HandshakeAt cap p x g w sl := by
  unfold Port.inSlot at hn
  constructor
  · exact polled
  all_goals exact fun _ b => absurd (by tauto) hn

end facts

/-! ### The invariant after a step that replaces one port's record -/

/-- From what the step must show: about the port itself, the slots, and what the others know. -/
theorem protocolAt_of_portMove {u u' : Unwrapped} {s t : State} {p p' : Port} (h : ProtocolAt u s)
    (hp : s.ports[s.active]? = some p) (hports : t.ports = s.ports.set s.active p')
    (hcap : t.cap = s.cap) (hmask : t.mask = s.mask) (herr : t.cfgErr = s.cfgErr)
    (hmem : Memory.wf t.cap t.slots = true)
    (hlow : t.putc = low u'.putc ∧ t.getc = low u'.getc)
    (hocc : u'.getc ≤ u'.putc ∧ u'.putc ≤ u'.getc + s.cap.toNat)
    (hP : u.putc ≤ u'.putc) (hG : u.getc ≤ u'.getc)
    (hother : ∀ j, j ≠ s.active → u'.gs j = u.gs j ∧ u'.ps j = u.ps j ∧ u'.pos j = u.pos j)
    (window : ∀ j r, j ≠ s.active → s.ports[j]? = some r →
      (r.pc = .snapP ∨ r.pc = .reserve → u'.putc < u.gs j + 2 ^ 32) ∧
      (Port.holding r = true → u'.putc < u.pos j + 2 ^ 32))
    (own : PortAt u' t s.active p')
    (putH : ∀ q, u'.holdsPut s.active p' q → u.holdsPut s.active p q ∨ u.putc < q)
    (getH : ∀ q, u'.holdsGet s.active p' q → u.holdsGet s.active p q ∨ u.getc < q)
    (slots : ∀ k, k < s.cap.toNat → SlotAt u' t k)
    (hs : ∀ j r, j ≠ s.active → s.ports[j]? = some r → Port.holding r = true →
      HandshakeAt s.cap r (u.pos j) (u.gseq (u.pos j % s.cap.toNat)) (u.pseq (u.pos j % s.cap.toNat))
        (readSlot s.cap s.slots (u.pos j % s.cap.toNat)) →
      HandshakeAt s.cap r (u.pos j) (u'.gseq (u.pos j % s.cap.toNat)) (u'.pseq (u.pos j % s.cap.toNat))
        (readSlot t.cap t.slots (u.pos j % s.cap.toNat))) : ProtocolAt u' t := by
  have ha := (List.getElem?_eq_some_iff.mp hp).1
  have hself : t.ports[s.active]? = some p' := by simp [hports, ha]
  have hne : ∀ {j r}, j ≠ s.active → t.ports[j]? = some r → s.ports[j]? = some r := by
    intro j r hj hr; rwa [hports, List.getElem?_set_ne (Ne.symm hj)] at hr
  refine ⟨herr ▸ h.legal, by rw [hcap, hmask]; exact h.capacity, hmem, hlow, by rw [hcap]; exact hocc, ?_, ?_, ?_,
    by rw [hcap]; exact slots⟩
  · intro j r hr
    by_cases e : j = s.active
    · subst e; rw [hself] at hr; cases hr; exact own
    · have hr' := hne e hr
      have hR := h.ports j r hr'
      obtain ⟨eg, ep, ex⟩ := hother j e
      obtain ⟨w1, w2⟩ := window j r e hr'
      constructor
      · exact hR.phase
      · intro hpc; obtain ⟨a, b, _⟩ := hR.snapshotG hpc; rw [eg]; exact ⟨a, by omega, w1 hpc⟩
      · intro hpc; obtain ⟨a, b, c⟩ := hR.snapshotP hpc; rw [eg, ep]; exact ⟨a, b, by omega⟩
      · rw [hcap]; exact hR.admitted
      · intro hh; rw [ex]; exact ⟨(hR.position hh).1, w2 hh⟩
      · exact hR.batch
      · intro hh ho; have := hR.putReserved hh ho; rw [ex]; omega
      · intro hh ho; have := hR.getReserved hh ho; rw [ex]; omega
      · exact hR.items
      · intro hh
        have := hs j r e hr' hh (hR.handshake hh)
        rw [← hcap] at this; rw [ex]; exact this
  · intro i j r r' hr hr' hij q hq hq'
    by_cases ei : i = s.active
    · subst ei
      rw [hself] at hr; cases hr
      have hr'' := hne (Ne.symm hij) hr'
      have hq2 := (holdsPut_congr (hother j (Ne.symm hij)).2.2 r' q).mp hq'
      rcases putH q hq with hq3 | hq3
      · exact h.putApart _ _ _ _ hp hr'' hij q hq3 hq2
      · have := (h.ports j r' hr'').putReserved hq2.2.1 hq2.1
        have := hq2.2.2.2; omega
    · have hr1 := hne ei hr
      have hq1 := (holdsPut_congr (hother i ei).2.2 r q).mp hq
      by_cases ej : j = s.active
      · subst ej
        rw [hself] at hr'; cases hr'
        rcases putH q hq' with hq3 | hq3
        · exact h.putApart _ _ _ _ hr1 hp hij q hq1 hq3
        · have := (h.ports i r hr1).putReserved hq1.2.1 hq1.1
          have := hq1.2.2.2; omega
      · exact h.putApart i j r r' hr1 (hne ej hr') hij q hq1 ((holdsPut_congr (hother j ej).2.2 r' q).mp hq')
  · intro i j r r' hr hr' hij q hq hq'
    by_cases ei : i = s.active
    · subst ei
      rw [hself] at hr; cases hr
      have hr'' := hne (Ne.symm hij) hr'
      have hq2 := (holdsGet_congr (hother j (Ne.symm hij)).2.2 r' q).mp hq'
      rcases getH q hq with hq3 | hq3
      · exact h.getApart _ _ _ _ hp hr'' hij q hq3 hq2
      · have := (h.ports j r' hr'').getReserved hq2.2.1 hq2.1
        have := hq2.2.2.2; omega
    · have hr1 := hne ei hr
      have hq1 := (holdsGet_congr (hother i ei).2.2 r q).mp hq
      by_cases ej : j = s.active
      · subst ej
        rw [hself] at hr'; cases hr'
        rcases getH q hq' with hq3 | hq3
        · exact h.getApart _ _ _ _ hr1 hp hij q hq1 hq3
        · have := (h.ports i r hr1).getReserved hq1.2.1 hq1.1
          have := hq1.2.2.2; omega
      · exact h.getApart i j r r' hr1 (hne ej hr') hij q hq1 ((holdsGet_congr (hother j ej).2.2 r' q).mp hq')

/-- The windows of the other ports, when the put cursor does not move. -/
theorem ProtocolAt.window {u u' : Unwrapped} {s : State} (h : ProtocolAt u s) (hP : u'.putc = u.putc) :
    ∀ j r, j ≠ s.active → s.ports[j]? = some r →
      (r.pc = .snapP ∨ r.pc = .reserve → u'.putc < u.gs j + 2 ^ 32) ∧
      (Port.holding r = true → u'.putc < u.pos j + 2 ^ 32) := by
  intro j r _ hr
  have hR := h.ports j r hr
  rw [hP]
  exact ⟨fun a => (hR.snapshotG a).2.2, fun a => (hR.position a).2⟩

/-- A step that changes no shared state and not what the port holds. -/
theorem protocolAt_local {u u' : Unwrapped} {s : State} {p p' : Port} (h : ProtocolAt u s)
    (hp : s.ports[s.active]? = some p)
    (hP : u'.putc = u.putc) (hG : u'.getc = u.getc) (hg : u'.gseq = u.gseq) (hw : u'.pseq = u.pseq)
    (hother : ∀ j, j ≠ s.active → u'.gs j = u.gs j ∧ u'.ps j = u.ps j ∧ u'.pos j = u.pos j)
    (own : PortAt u' (s.setPort p') s.active p')
    (putH : ∀ q, u'.holdsPut s.active p' q ↔ u.holdsPut s.active p q)
    (getH : ∀ q, u'.holdsGet s.active p' q ↔ u.holdsGet s.active p q)
    (npub : p.pc ≠ .publish) : ProtocolAt u' (s.setPort p') := by
  refine protocolAt_of_portMove (p' := p') h hp rfl rfl rfl rfl h.memory ?_ ?_ (hP ▸ le_refl _) (hG ▸ le_refl _) hother
    (h.window hP) own (fun q hq => .inl ((putH q).mp hq)) (fun q hq => .inl ((getH q).mp hq)) ?_ ?_
  · rw [hP, hG]; exact h.cursorsLow
  · rw [hP, hG]; exact h.occupancy
  · intro k hk
    refine slotAt_congr (h.slots k hk) rfl rfl (by rw [hg]) (by rw [hw]) hP hG ?_ ?_ ?_ ?_
    · exact fun q => exists_port_same hp rfl _ _ (putH q) fun j r hj => holdsPut_congr (hother j hj).2.2 r q
    · exact fun q => exists_port_same hp rfl _ _ (getH q) fun j r hj => holdsGet_congr (hother j hj).2.2 r q
    · rintro ⟨i, r, hr, a, b, c⟩
      have hi : i ≠ s.active := by rintro rfl; rw [hp] at hr; cases hr; exact npub b
      exact (exists_port_set hp rfl _).mpr (.inr ⟨i, r, hi, hr, a, b, by rw [(hother i hi).2.2]; exact c⟩)
    · rintro ⟨i, r, hr, a, b, c⟩
      have hi : i ≠ s.active := by rintro rfl; rw [hp] at hr; cases hr; exact npub b
      exact (exists_port_set hp rfl _).mpr (.inr ⟨i, r, hi, hr, a, b, by rw [(hother i hi).2.2]; exact c⟩)
  · intro j r _ _ _ hk; rw [hg, hw]; exact hk

/-- A step outside the handshakes that changes no shared state. -/
theorem protocolAt_outside {u u' : Unwrapped} {s : State} {p p' : Port} (h : ProtocolAt u s)
    (hp : s.ports[s.active]? = some p)
    (hP : u'.putc = u.putc) (hG : u'.getc = u.getc) (hg : u'.gseq = u.gseq) (hw : u'.pseq = u.pseq)
    (hother : ∀ j, j ≠ s.active → u'.gs j = u.gs j ∧ u'.ps j = u.ps j ∧ u'.pos j = u.pos j)
    (h1 : Port.holding p = false) (h2 : Port.holding p' = false)
    (phase : labelExists p'.op p'.pc = true)
    (snapG : p'.pc = .snapP ∨ p'.pc = .reserve →
      p'.gs = low (u'.gs s.active) ∧ u'.gs s.active ≤ u.getc ∧ u.putc < u'.gs s.active + 2 ^ 32)
    (snapP : p'.pc = .reserve →
      p'.ps = low (u'.ps s.active) ∧ u'.gs s.active ≤ u'.ps s.active ∧ u'.ps s.active ≤ u.putc)
    (adm : p'.pc = .reserve → p'.occ = est s.cap p'.gs p'.ps ∧ admissionOk s.cap p')
    (items : consumerOp p'.op = true → p'.pc ≠ .idle → p'.outItems = []) : ProtocolAt u' (s.setPort p') := by
  refine protocolAt_local h hp hP hG hg hw hother ?_ ?_ ?_ ?_
  · constructor
    · exact phase
    · rw [hP, hG]; exact snapG
    · rw [hP]; exact snapP
    · exact adm
    · simp [h2]
    · simp [h2]
    · simp [h2]
    · simp [h2]
    · intro a b
      have : Port.taken p' = 0 := by
        revert h2; unfold Port.holding Port.taken; cases p'.pc <;> simp
      rw [items a b, this]; rfl
    · simp [h2]
  · intro q; simp [not_holdsPut h1, not_holdsPut h2]
  · intro q; simp [not_holdsGet h1, not_holdsGet h2]
  · intro e; simp [Port.holding, e] at h1

/-- A step inside a handshake that changes no shared state and not `x[pos]`. -/
theorem protocolAt_inside {u : Unwrapped} {s : State} {p p' : Port} (h : ProtocolAt u s)
    (hp : s.ports[s.active]? = some p) (phase : labelExists p'.op p'.pc = true)
    (h1 : Port.holding p = true) (h2 : Port.holding p' = true) (npub : p.pc ≠ .publish)
    (eop : p'.op = p.op) (epos : p'.pos = p.pos) (en : p'.n = p.n) (ek : p'.k = p.k)
    (items : consumerOp p'.op = true → p'.outItems.length = Port.taken p')
    (hs : HandshakeAt s.cap p' (u.pos s.active) (u.gseq (u.pos s.active % s.cap.toNat))
      (u.pseq (u.pos s.active % s.cap.toNat)) (readSlot s.cap s.slots (u.pos s.active % s.cap.toNat))) :
    ProtocolAt u (s.setPort p') := by
  have hP := h.ports _ p hp
  have er : Port.remaining p' = Port.remaining p := by simp [Port.remaining, eop, en, ek]
  refine protocolAt_local h hp rfl rfl rfl rfl (fun _ _ => ⟨rfl, rfl, rfl⟩) ?_ ?_ ?_ npub
  · constructor
    · exact phase
    · intro e; rcases e with e | e <;> simp [Port.holding, e] at h2
    · intro e; simp [Port.holding, e] at h2
    · intro e; simp [Port.holding, e] at h2
    · intro _; rw [epos]; exact hP.position h1
    · intro _ ho; rw [ek, en]; exact hP.batch h1 (eop ▸ ho)
    · intro _ ho; rw [er]; exact hP.putReserved h1 (eop ▸ ho)
    · intro _ ho; rw [er]; exact hP.getReserved h1 (eop ▸ ho)
    · exact fun a _ => items a
    · exact fun _ => hs
  · intro q; simp only [Unwrapped.holdsPut, h1, h2, eop, er]
  · intro q; simp only [Unwrapped.holdsGet, h1, h2, eop, er]

/-! ### The steps of a handshake that write the slot -/

/-- The slot that a step of port `a` writes, and the others. -/
theorem readSlot_write {s : State} {i k : Nat} (v : Slot) (hw : Memory.wf s.cap s.slots = true) :
    readSlot s.cap (writeSlot s.cap s.slots i v) k = if k = i then v else readSlot s.cap s.slots k := by
  split
  · rename_i e; subst e; exact readSlot_writeSlot_same v hw
  · rename_i e; exact readSlot_writeSlot_other e v _

/-- XFER of a producer and CLEAR of a consumer: the port writes `VAL` of its slot and goes on to PUBLISH (rules R123,
R124). -/
theorem protocolAt_wroteVal {u : Unwrapped} {s : State} {p : Port} {v : Option Item} (h : ProtocolAt u s)
    (hp : s.ports[s.active]? = some p)
    (hpc : (p.pc = .xfer ∧ producerOp p.op = true ∧ v ≠ none) ∨ (p.pc = .clear ∧ consumerOp p.op = true ∧ v = none)) :
    ProtocolAt u ((s.setSlot (slotIndex s.mask p.pos)
      ((readSlot s.cap s.slots (slotIndex s.mask p.pos)).withVal v)).setPort { p with pc := .publish }) := by
  have hP := h.ports _ p hp
  have hin : Port.inSlot p := by rcases hpc with ⟨e, _⟩ | ⟨e, _⟩ <;> simp [Port.inSlot, e]
  have hh := hin.holding
  have hpol : p.pc ≠ .publish := by rcases hpc with ⟨e, _⟩ | ⟨e, _⟩ <;> simp [e]
  have hg := hP.gseq_of_inSlot hin
  have hC := capacity_pos h.capacity
  rw [h.slotIndex_pos hp hh]
  have hlt := h.slot_lt (u.pos s.active)
  have rs := fun k => readSlot_write (k := k) (i := u.pos s.active % s.cap.toNat)
    ((readSlot s.cap s.slots (u.pos s.active % s.cap.toNat)).withVal v) h.memory
  have put : ∀ q, u.holdsPut s.active { p with pc := .publish } q ↔ u.holdsPut s.active p q := by
    intro q; simp [Unwrapped.holdsPut, hh]; simp [Port.holding, Port.remaining]
  have get : ∀ q, u.holdsGet s.active { p with pc := .publish } q ↔ u.holdsGet s.active p q := by
    intro q; simp [Unwrapped.holdsGet, hh]; simp [Port.holding, Port.remaining]
  refine protocolAt_of_portMove (p' := { p with pc := .publish }) h hp rfl rfl rfl rfl (writeSlot_wf _ hlt h.memory)
    h.cursorsLow h.occupancy (le_refl _) (le_refl _) (fun _ _ => ⟨rfl, rfl, rfl⟩) (h.window rfl) ?_
    (fun q hq => .inl ((put q).mp hq)) (fun q hq => .inl ((get q).mp hq)) ?_ ?_
  · constructor
    · rcases hpc with ⟨_, o, _⟩ | ⟨_, o, _⟩ <;> simp [labelExists, o]
    · simp
    · simp
    · simp
    · exact fun _ => hP.position hh
    · exact fun _ => hP.batch hh
    · exact fun _ => hP.putReserved hh
    · exact fun _ => hP.getReserved hh
    · intro o _
      rcases hpc with ⟨_, o', _⟩ | ⟨e, _, _⟩
      · simp [consumerOp_of_producerOp o'] at o
      · have := hP.items o (by simp [e]); simpa [Port.taken, e] using this
    · intro _
      simp only [State.setPort_cap, State.setSlot_cap, State.setPort_slots, State.setSlot_slots, rs, if_true]
      rcases hpc with ⟨e, o, hv⟩ | ⟨e, o, hv⟩
      · simp only [o, if_true] at hg
        constructor <;> simp [consumerOp_of_producerOp o, hg, hv]
      · simp only [producerOp_of_consumerOp o] at hg
        constructor <;> simp [producerOp_of_consumerOp o, hg, hv]
  · intro k hk
    have H := h.slots k hk
    have putE : ∀ q, u.heldPut ((s.setSlot (u.pos s.active % s.cap.toNat)
        ((readSlot s.cap s.slots (u.pos s.active % s.cap.toNat)).withVal v)).setPort { p with pc := .publish }) q ↔
        u.heldPut s q := fun q => exists_port_same hp rfl _ _ (put q) fun _ _ _ => Iff.rfl
    have getE : ∀ q, u.heldGet ((s.setSlot (u.pos s.active % s.cap.toNat)
        ((readSlot s.cap s.slots (u.pos s.active % s.cap.toNat)).withVal v)).setPort { p with pc := .publish }) q ↔
        u.heldGet s q := fun q => exists_port_same hp rfl _ _ (get q) fun _ _ _ => Iff.rfl
    have fillE : ∀ g, u.fillsPut s g → u.fillsPut ((s.setSlot (u.pos s.active % s.cap.toNat)
        ((readSlot s.cap s.slots (u.pos s.active % s.cap.toNat)).withVal v)).setPort { p with pc := .publish }) g := by
      rintro g ⟨i, r, hr, a, b, c⟩
      have hi : i ≠ s.active := by rintro rfl; rw [hp] at hr; cases hr; exact hpol b
      exact (exists_port_set hp rfl _).mpr (.inr ⟨i, r, hi, hr, a, b, c⟩)
    have drainE : ∀ g, u.drainsGet s g → u.drainsGet ((s.setSlot (u.pos s.active % s.cap.toNat)
        ((readSlot s.cap s.slots (u.pos s.active % s.cap.toNat)).withVal v)).setPort { p with pc := .publish }) g := by
      rintro g ⟨i, r, hr, a, b, c⟩
      have hi : i ≠ s.active := by rintro rfl; rw [hp] at hr; cases hr; exact hpol b
      exact (exists_port_set hp rfl _).mpr (.inr ⟨i, r, hi, hr, a, b, c⟩)
    by_cases e : k = u.pos s.active % s.cap.toNat
    · subst e
      constructor <;> simp only [State.setPort_cap, State.setSlot_cap, State.setPort_slots, State.setSlot_slots, rs,
        if_true, Slot.withVal_pseq, Slot.withVal_gseq, Slot.withVal_val, putE, getE]
      · exact H.gseqLow
      · exact H.pseqLow
      · exact H.residue
      · exact H.gap
      · exact H.pseqBound
      · exact H.gseqBound
      · exact H.putCover
      · exact H.putAhead
      · exact H.getCover
      · exact H.getAhead
      · intro a b
        rcases hpc with ⟨_, o, _⟩ | ⟨_, _, hv⟩
        · exact (exists_port_set (p' := { p with pc := .publish }) hp rfl _).mpr (.inl ⟨o, rfl, hg.1.symm⟩)
        · exact absurd hv b
      · intro a b
        rcases hpc with ⟨_, _, hv⟩ | ⟨_, o, _⟩
        · exact absurd b hv
        · exact (exists_port_set (p' := { p with pc := .publish }) hp rfl _).mpr (.inl ⟨o, rfl, hg.1.symm⟩)
    · exact slotAt_congr H rfl (by simpa [e] using rs k) rfl rfl rfl rfl putE getE (fillE _) (drainE _)
  · intro j r hj hr hrh hk'
    simp only [State.setPort_cap, State.setSlot_cap, State.setPort_slots, State.setSlot_slots, rs]
    split
    · rename_i e
      exact HandshakeAt.of_polling (fun hin' => h.inSlot_alone hp hr hj hin hin' e) (e ▸ hk'.polled)
    · exact hk'

/-- A successful CAS and a PUBLISH leave the port without an item or at its next poll. -/
theorem Port.taken_of_pc {p : Port} (h : p.pc = .pollG) : Port.taken p = if p.op = 0x04#8 then p.k.toNat else 0 := by
  simp [Port.taken, h]

/-- PUBLISH of a producer (rule R114): the port gives up `x[pos]` and holds the rest. -/
theorem protocolAt_published {u u' : Unwrapped} {s : State} {p p' : Port} (h : ProtocolAt u s)
    (hp : s.ports[s.active]? = some p) (hpc : p.pc = .publish) (ho : producerOp p.op = true)
    (hP' : u'.putc = u.putc) (hG' : u'.getc = u.getc) (hgs : u'.gseq = u.gseq)
    (hps : u'.pseq = Function.update u.pseq (u.pos s.active % s.cap.toNat) (u.pos s.active + s.cap.toNat))
    (hother : ∀ j, j ≠ s.active → u'.gs j = u.gs j ∧ u'.ps j = u.ps j ∧ u'.pos j = u.pos j)
    (eop : p'.op = p.op)
    (next : p'.pc = .idle ∨ (p'.pc = .pollG ∧ p'.pos = low (u'.pos s.active) ∧ u.putc < u'.pos s.active + 2 ^ 32 ∧
      (p'.op = 0x02#8 ∨ p'.op = 0x04#8 → p'.k.toNat < p'.n.toNat)))
    (hH : ∀ q, u'.holdsPut s.active p' q ↔ u.holdsPut s.active p q ∧ q ≠ u.pos s.active)
    (hR : Port.holding p' = true → u'.pos s.active + Port.remaining p' ≤ u.putc + 1) :
    ProtocolAt u' ((s.setSlot (slotIndex s.mask p.pos)
      ((readSlot s.cap s.slots (slotIndex s.mask p.pos)).addPseq s.cap)).setPort p') := by
  have hP := h.ports _ p hp
  have hin : Port.inSlot p := .inr (.inr hpc)
  have hh := hin.holding
  have nc : consumerOp p.op = false := consumerOp_of_producerOp ho
  obtain ⟨hg, hw⟩ := hP.gseq_of_inSlot hin
  simp only [ho, if_true] at hw
  have hfull := (hP.handshake hh).putFull ho hpc
  have hpos := hP.holdsPut_pos ho hh
  have hle := h.pos_le hp hh
  have hC := capacity_pos h.capacity
  rw [h.slotIndex_pos hp hh]
  have hlt := h.slot_lt (u.pos s.active)
  have rs := fun k => readSlot_write (k := k) (i := u.pos s.active % s.cap.toNat)
    ((readSlot s.cap s.slots (u.pos s.active % s.cap.toNat)).addPseq s.cap) h.memory
  refine protocolAt_of_portMove (p' := p') h hp rfl rfl rfl rfl (writeSlot_wf _ hlt h.memory)
    (by rw [hP', hG']; exact h.cursorsLow) (by rw [hP', hG']; exact h.occupancy) (hP' ▸ le_refl _) (hG' ▸ le_refl _) hother
    (h.window hP') ?_ (fun q hq => .inl ((hH q).mp hq).1) (by rintro q ⟨a, _⟩; simp [nc, eop] at a) ?_ ?_
  · constructor
    · rcases next with e | ⟨e, _⟩ <;> simp [labelExists, e, eop, ho]
    · intro e'; rcases next with e | ⟨e, _⟩ <;> simp [e] at e'
    · intro e'; rcases next with e | ⟨e, _⟩ <;> simp [e] at e'
    · intro e'; rcases next with e | ⟨e, _⟩ <;> simp [e] at e'
    · intro e'
      rcases next with e | ⟨_, a, b, _⟩
      · simp [Port.holding, e] at e'
      · rw [hP']; exact ⟨a, b⟩
    · intro e'
      rcases next with e | ⟨_, _, _, c⟩
      · simp [Port.holding, e] at e'
      · exact c
    · intro e' _; rw [hP']; exact hR e'
    · intro _ a; simp [eop, nc] at a
    · intro a; simp [eop, nc] at a
    · intro e'
      have e : p'.pc = .pollG := by rcases next with e | ⟨e, _⟩; simp [Port.holding, e] at e'; exact e
      exact HandshakeAt.of_polling (by simp [Port.inSlot, e]) (by simp [e])
  · intro k hk
    have H := h.slots k hk
    have putE : ∀ q, u'.heldPut ((s.setSlot (u.pos s.active % s.cap.toNat)
        ((readSlot s.cap s.slots (u.pos s.active % s.cap.toNat)).addPseq s.cap)).setPort p') q ↔
        u.heldPut s q ∧ q ≠ u.pos s.active := by
      intro q
      unfold Unwrapped.heldPut
      rw [exists_port_set hp rfl, exists_port_split hp, hH]
      constructor
      · rintro (⟨a, b⟩ | ⟨j, r, hj, hr, hq⟩)
        · exact ⟨.inl a, b⟩
        · have hq' := (holdsPut_congr (hother j hj).2.2 r q).mp hq
          exact ⟨.inr ⟨j, r, hj, hr, hq'⟩, fun e => h.putApart _ _ _ _ hr hp hj q hq' (e ▸ hpos)⟩
      · rintro ⟨a | ⟨j, r, hj, hr, hq⟩, b⟩
        · exact .inl ⟨a, b⟩
        · exact .inr ⟨j, r, hj, hr, (holdsPut_congr (hother j hj).2.2 r q).mpr hq⟩
    have getE : ∀ q, u'.heldGet ((s.setSlot (u.pos s.active % s.cap.toNat)
        ((readSlot s.cap s.slots (u.pos s.active % s.cap.toNat)).addPseq s.cap)).setPort p') q ↔ u.heldGet s q :=
      fun q => exists_port_same hp rfl _ _ (by simp [Unwrapped.holdsGet, nc, eop])
        fun j r hj => holdsGet_congr (hother j hj).2.2 r q
    have drainE : ∀ g, u.drainsGet s g → u'.drainsGet ((s.setSlot (u.pos s.active % s.cap.toNat)
        ((readSlot s.cap s.slots (u.pos s.active % s.cap.toNat)).addPseq s.cap)).setPort p') g := by
      rintro g ⟨i, r, hr, a, b, c⟩
      have hi : i ≠ s.active := by rintro rfl; rw [hp] at hr; cases hr; simp [nc] at a
      exact (exists_port_set hp rfl _).mpr (.inr ⟨i, r, hi, hr, a, b, by rw [(hother i hi).2.2]; exact c⟩)
    by_cases e : k = u.pos s.active % s.cap.toNat
    · subst e
      constructor <;> simp only [State.setPort_cap, State.setSlot_cap, State.setPort_slots, State.setSlot_slots, rs,
        if_true, Slot.addPseq_pseq, Slot.addPseq_gseq, Slot.addPseq_val, putE, getE, hP', hG', hgs, hps,
        Function.update_self, hg]
      · rw [H.gseqLow, hg]
      · rw [H.pseqLow, hw, add32_low]
      · exact .inr trivial
      · omega
      · have := H.gseqBound; omega
      · intro q a b c; exact ⟨H.putCover q a (by rw [hw]; omega) c, by omega⟩
      · rintro q a ⟨b, c⟩
        have := H.putAhead q a b; rw [hw] at this
        exact add_le_of_mod_eq rfl a (by omega)
      · have := H.getCover; rwa [hg] at this
      · have := H.getAhead; rwa [hg] at this
      · intro a; omega
      · intro _ a; exact absurd a hfull
    · have ne : ∀ q, q % s.cap.toNat = k → q ≠ u.pos s.active := by rintro q a rfl; exact e a.symm
      have rk : readSlot s.cap (writeSlot s.cap s.slots (u.pos s.active % s.cap.toNat)
          ((readSlot s.cap s.slots (u.pos s.active % s.cap.toNat)).addPseq s.cap)) k = readSlot s.cap s.slots k := by
        simpa [e] using rs k
      have wk : u'.pseq k = u.pseq k := by rw [hps, Function.update_of_ne e]
      constructor <;> simp only [State.setPort_cap, State.setSlot_cap, State.setPort_slots, State.setSlot_slots, rk,
        putE, getE, hP', hG', hgs, wk]
      · exact H.gseqLow
      · exact H.pseqLow
      · exact H.residue
      · exact H.gap
      · exact H.pseqBound
      · exact H.gseqBound
      · intro q a b c; exact ⟨H.putCover q a b c, ne q a⟩
      · rintro q a ⟨b, _⟩; exact H.putAhead q a b
      · exact H.getCover
      · exact H.getAhead
      · intro a b
        obtain ⟨i, r, hr, c, d, f⟩ := H.filled a b
        have hi : i ≠ s.active := by
          rintro rfl; exact ne (u.gseq k) H.residue f.symm
        exact (exists_port_set hp rfl _).mpr (.inr ⟨i, r, hi, hr, c, d, by rw [(hother i hi).2.2]; exact f⟩)
      · exact fun a b => drainE _ (H.drained a b)
  · intro j r hj hr hrh hk'
    simp only [State.setPort_cap, State.setSlot_cap, State.setPort_slots, State.setSlot_slots, rs, hgs, hps]
    by_cases e : u.pos j % s.cap.toNat = u.pos s.active % s.cap.toNat
    · exact HandshakeAt.of_polling (fun hin' => h.inSlot_alone hp hr hj hin hin' e) hk'.polled
    · simpa [e] using hk'

/-- PUBLISH of a consumer (rule R115): the port gives up `x[pos]` and holds the rest. -/
theorem protocolAt_released {u u' : Unwrapped} {s : State} {p p' : Port} (h : ProtocolAt u s)
    (hp : s.ports[s.active]? = some p) (hpc : p.pc = .publish) (ho : consumerOp p.op = true)
    (hP' : u'.putc = u.putc) (hG' : u'.getc = u.getc) (hps : u'.pseq = u.pseq)
    (hgs : u'.gseq = Function.update u.gseq (u.pos s.active % s.cap.toNat) (u.pos s.active + s.cap.toNat))
    (hother : ∀ j, j ≠ s.active → u'.gs j = u.gs j ∧ u'.ps j = u.ps j ∧ u'.pos j = u.pos j)
    (eop : p'.op = p.op)
    (next : p'.pc = .idle ∨ (p'.pc = .pollG ∧ p'.pos = low (u'.pos s.active) ∧ u.putc < u'.pos s.active + 2 ^ 32 ∧
      (p'.op = 0x02#8 ∨ p'.op = 0x04#8 → p'.k.toNat < p'.n.toNat) ∧ p'.outItems.length = Port.taken p'))
    (hH : ∀ q, u'.holdsGet s.active p' q ↔ u.holdsGet s.active p q ∧ q ≠ u.pos s.active)
    (hR : Port.holding p' = true → u'.pos s.active + Port.remaining p' ≤ u.getc + 1) :
    ProtocolAt u' ((s.setSlot (slotIndex s.mask p.pos)
      ((readSlot s.cap s.slots (slotIndex s.mask p.pos)).addGseq s.cap)).setPort p') := by
  have hP := h.ports _ p hp
  have hin : Port.inSlot p := .inr (.inr hpc)
  have hh := hin.holding
  have nc : producerOp p.op = false := producerOp_of_consumerOp ho
  obtain ⟨hg, hw⟩ := hP.gseq_of_inSlot hin
  simp only [nc, Bool.false_eq_true, if_false] at hw
  have hempty := (hP.handshake hh).getEmpty ho hpc
  have hpos := hP.holdsGet_pos ho hh
  have hle : u.pos s.active ≤ u.getc := by
    have := hP.getReserved hh ho; have := hP.remaining_pos hh; omega
  have hC := capacity_pos h.capacity
  rw [h.slotIndex_pos hp hh]
  have hlt := h.slot_lt (u.pos s.active)
  have rs := fun k => readSlot_write (k := k) (i := u.pos s.active % s.cap.toNat)
    ((readSlot s.cap s.slots (u.pos s.active % s.cap.toNat)).addGseq s.cap) h.memory
  refine protocolAt_of_portMove (p' := p') h hp rfl rfl rfl rfl (writeSlot_wf _ hlt h.memory)
    (by rw [hP', hG']; exact h.cursorsLow) (by rw [hP', hG']; exact h.occupancy) (hP' ▸ le_refl _) (hG' ▸ le_refl _) hother
    (h.window hP') ?_ (by rintro q ⟨a, _⟩; simp [nc, eop] at a) (fun q hq => .inl ((hH q).mp hq).1) ?_ ?_
  · constructor
    · rcases next with e | ⟨e, _⟩ <;> simp [labelExists, e, eop, ho]
    · intro e'; rcases next with e | ⟨e, _⟩ <;> simp [e] at e'
    · intro e'; rcases next with e | ⟨e, _⟩ <;> simp [e] at e'
    · intro e'; rcases next with e | ⟨e, _⟩ <;> simp [e] at e'
    · intro e'
      rcases next with e | ⟨_, a, b, _⟩
      · simp [Port.holding, e] at e'
      · rw [hP']; exact ⟨a, b⟩
    · intro e'
      rcases next with e | ⟨_, _, _, c, _⟩
      · simp [Port.holding, e] at e'
      · exact c
    · intro _ a; simp [eop, nc] at a
    · intro e' _; rw [hG']; exact hR e'
    · intro _ a
      rcases next with e | ⟨_, _, _, _, d⟩
      · exact absurd e a
      · exact d
    · intro e'
      have e : p'.pc = .pollG := by rcases next with e | ⟨e, _⟩; simp [Port.holding, e] at e'; exact e
      exact HandshakeAt.of_polling (by simp [Port.inSlot, e]) (by simp [e])
  · intro k hk
    have H := h.slots k hk
    have getE : ∀ q, u'.heldGet ((s.setSlot (u.pos s.active % s.cap.toNat)
        ((readSlot s.cap s.slots (u.pos s.active % s.cap.toNat)).addGseq s.cap)).setPort p') q ↔
        u.heldGet s q ∧ q ≠ u.pos s.active := by
      intro q
      unfold Unwrapped.heldGet
      rw [exists_port_set hp rfl, exists_port_split hp, hH]
      constructor
      · rintro (⟨a, b⟩ | ⟨j, r, hj, hr, hq⟩)
        · exact ⟨.inl a, b⟩
        · have hq' := (holdsGet_congr (hother j hj).2.2 r q).mp hq
          exact ⟨.inr ⟨j, r, hj, hr, hq'⟩, fun e => h.getApart _ _ _ _ hr hp hj q hq' (e ▸ hpos)⟩
      · rintro ⟨a | ⟨j, r, hj, hr, hq⟩, b⟩
        · exact .inl ⟨a, b⟩
        · exact .inr ⟨j, r, hj, hr, (holdsGet_congr (hother j hj).2.2 r q).mpr hq⟩
    have putE : ∀ q, u'.heldPut ((s.setSlot (u.pos s.active % s.cap.toNat)
        ((readSlot s.cap s.slots (u.pos s.active % s.cap.toNat)).addGseq s.cap)).setPort p') q ↔ u.heldPut s q :=
      fun q => exists_port_same hp rfl _ _ (by simp [Unwrapped.holdsPut, nc, eop])
        fun j r hj => holdsPut_congr (hother j hj).2.2 r q
    have fillE : ∀ g, u.fillsPut s g → u'.fillsPut ((s.setSlot (u.pos s.active % s.cap.toNat)
        ((readSlot s.cap s.slots (u.pos s.active % s.cap.toNat)).addGseq s.cap)).setPort p') g := by
      rintro g ⟨i, r, hr, a, b, c⟩
      have hi : i ≠ s.active := by rintro rfl; rw [hp] at hr; cases hr; simp [nc] at a
      exact (exists_port_set hp rfl _).mpr (.inr ⟨i, r, hi, hr, a, b, by rw [(hother i hi).2.2]; exact c⟩)
    by_cases e : k = u.pos s.active % s.cap.toNat
    · subst e
      constructor <;> simp only [State.setPort_cap, State.setSlot_cap, State.setPort_slots, State.setSlot_slots, rs,
        if_true, Slot.addGseq_pseq, Slot.addGseq_gseq, Slot.addGseq_val, putE, getE, hP', hG', hps, hgs,
        Function.update_self, hw]
      · rw [H.gseqLow, hg, add32_low]
      · rw [H.pseqLow, hw]
      · rw [Nat.add_mod_right]
      · exact .inl trivial
      · have := H.pseqBound; omega
      · omega
      · have := H.putCover; rwa [hw] at this
      · have := H.putAhead; rwa [hw] at this
      · intro q a b c; exact ⟨H.getCover q a (by rw [hg]; omega) c, by omega⟩
      · rintro q a ⟨b, c⟩
        have := H.getAhead q a b; rw [hg] at this
        exact add_le_of_mod_eq rfl a (by omega)
      · intro _ a; exact absurd hempty a
      · intro a; exact absurd rfl a
    · have ne : ∀ q, q % s.cap.toNat = k → q ≠ u.pos s.active := by rintro q a rfl; exact e a.symm
      have rk : readSlot s.cap (writeSlot s.cap s.slots (u.pos s.active % s.cap.toNat)
          ((readSlot s.cap s.slots (u.pos s.active % s.cap.toNat)).addGseq s.cap)) k = readSlot s.cap s.slots k := by
        simpa [e] using rs k
      have wk : u'.gseq k = u.gseq k := by rw [hgs, Function.update_of_ne e]
      constructor <;> simp only [State.setPort_cap, State.setSlot_cap, State.setPort_slots, State.setSlot_slots, rk,
        putE, getE, hP', hG', hps, wk]
      · exact H.gseqLow
      · exact H.pseqLow
      · exact H.residue
      · exact H.gap
      · exact H.pseqBound
      · exact H.gseqBound
      · exact H.putCover
      · exact H.putAhead
      · intro q a b c; exact ⟨H.getCover q a b c, ne q a⟩
      · rintro q a ⟨b, _⟩; exact H.getAhead q a b
      · exact fun a b => fillE _ (H.filled a b)
      · intro a b
        obtain ⟨i, r, hr, c, d, f⟩ := H.drained a b
        have hi : i ≠ s.active := by
          rintro rfl; exact ne (u.gseq k) H.residue f.symm
        exact (exists_port_set hp rfl _).mpr (.inr ⟨i, r, hi, hr, c, d, by rw [(hother i hi).2.2]; exact f⟩)
  · intro j r hj hr hrh hk'
    simp only [State.setPort_cap, State.setSlot_cap, State.setPort_slots, State.setSlot_slots, rs, hgs, hps]
    by_cases e : u.pos j % s.cap.toNat = u.pos s.active % s.cap.toNat
    · refine HandshakeAt.of_polling (fun hin' => h.inSlot_alone hp hr hj hin hin' e) ?_
      intro a b
      exfalso
      have e2 : u.pos j = u.pos s.active := by
        have := hk'.polled a b; rw [e, hg] at this; exact this.symm
      rcases family_of_holding (h.ports j r hr).phase hrh with o | o
      · have := (h.slots _ hlt).putAhead (u.pos j) e ⟨j, r, hr, (h.ports j r hr).holdsPut_pos o hrh⟩
        rw [hw] at this; omega
      · exact h.get_pos_ne hp hr hj ho o hh hrh e2
    · simpa [e] using hk'

/-! ### The reservations -/

/-- A successful CAS on `PUTC` (rule R118), the other ports not overtaken by it. -/
theorem protocolAt_reservedPut {u : Unwrapped} {s : State} {p : Port} {n : U32} (h : ProtocolAt u s)
    (hp : s.ports[s.active]? = some p) (hpc : p.pc = .reserve)
    (hop : (p.op = 0x01#8 ∧ n = 1#32) ∨ (p.op = 0x02#8 ∧ n = p.n)) (hps : s.putc = p.ps)
    (window : ∀ j r, j ≠ s.active → s.ports[j]? = some r →
      (r.pc = .snapP ∨ r.pc = .reserve → u.putc + n.toNat < u.gs j + 2 ^ 32) ∧
      (Port.holding r = true → u.putc + n.toNat < u.pos j + 2 ^ 32)) :
    ProtocolAt { u with putc := u.putc + n.toNat, pos := Function.update u.pos s.active (u.putc + 1) }
      (State.setPort { s with putc := add32 p.ps n } (p.reserved p.ps)) := by
  have hP := h.ports _ p hp
  obtain ⟨g1, g2, g3⟩ := hP.snapshotG (.inr hpc)
  obtain ⟨p1, p2, p3⟩ := hP.snapshotP hpc
  obtain ⟨a1, a2⟩ := hP.admitted hpc
  have hC := capacity_pos h.capacity
  have hCl : s.cap.toNat < 2 ^ 32 := s.cap.isLt
  have eps : u.putc = u.ps s.active := by
    rw [h.cursorsLow.1, p1] at hps; exact low_inj hps (by omega) (by omega)
  have hocc : p.occ.toNat = min (u.ps s.active - u.gs s.active) s.cap.toNat := by
    rw [a1, est_toNat, g1, p1, sub32_low p2 (by omega)]
  have hoc := h.occupancy
  have ho : producerOp p.op = true := by rcases hop with ⟨e, _⟩ | ⟨e, _⟩ <;> simp [producerOp, e]
  have nc : consumerOp p.op = false := consumerOp_of_producerOp ho
  have hn : 1 ≤ n.toNat ∧ u.putc + n.toNat ≤ u.getc + s.cap.toNat := by
    rcases hop with ⟨e, rfl⟩ | ⟨e, rfl⟩
    · have := a2.1 e; simp; omega
    · have := a2.2.1 e; omega
  have hrem : Port.remaining (p.reserved p.ps) = n.toNat := by
    rcases hop with ⟨e, rfl⟩ | ⟨e, rfl⟩ <;> simp [Port.remaining, e]
  have hh : Port.holding p = false := by simp [Port.holding, hpc]
  have hh' : Port.holding (p.reserved p.ps) = true := by simp [Port.holding]
  generalize hu : ({ u with putc := u.putc + n.toNat, pos := Function.update u.pos s.active (u.putc + 1) } : Unwrapped) = u'
  have eP : u'.putc = u.putc + n.toNat := by rw [← hu]
  have eG : u'.getc = u.getc := by rw [← hu]
  have eg : u'.gseq = u.gseq := by rw [← hu]
  have ew : u'.pseq = u.pseq := by rw [← hu]
  have ex : u'.pos s.active = u.putc + 1 := by rw [← hu]; simp
  have hother : ∀ j, j ≠ s.active → u'.gs j = u.gs j ∧ u'.ps j = u.ps j ∧ u'.pos j = u.pos j := by
    intro j hj; rw [← hu]; simp [hj]
  have new : ∀ q, u'.holdsPut s.active (p.reserved p.ps) q ↔ u.putc < q ∧ q ≤ u.putc + n.toNat := by
    intro q
    simp only [Unwrapped.holdsPut, hrem, hh', ex, Port.reserved_op, ho]
    constructor
    · rintro ⟨_, _, a, b⟩; omega
    · rintro ⟨a, b⟩; exact ⟨trivial, trivial, by omega, by omega⟩
  refine protocolAt_of_portMove (p' := p.reserved p.ps) h hp rfl rfl rfl rfl h.memory ?_ ?_ (by omega) (by omega) hother ?_ ?_
    (fun q hq => .inr ((new q).mp hq).1) (by rintro q ⟨a, _⟩; simp [nc] at a) ?_ ?_
  · refine ⟨?_, by rw [eG]; exact h.cursorsLow.2⟩
    rw [eP, eps, State.setPort_putc, p1, add32_low]
  · omega
  · rw [eP]; exact window
  · constructor
    · simp [labelExists, ho]
    · simp
    · simp
    · simp
    · intro _; rw [ex, eP, Port.reserved_pos, p1, add32_low, eps]; exact ⟨rfl, by omega⟩
    · intro _ hb; rcases hop with ⟨e, rfl⟩ | ⟨e, rfl⟩
      · simp [e] at hb
      · simp; omega
    · intro _ _; rw [hrem, ex, eP]; omega
    · intro _ a; simp [nc] at a
    · intro a; simp [nc] at a
    · intro _; exact HandshakeAt.of_polling (by simp [Port.inSlot]) (by simp)
  · intro k hk
    have H := h.slots k hk
    have putE : ∀ q, u'.heldPut (State.setPort { s with putc := add32 p.ps n } (p.reserved p.ps)) q ↔
        u.heldPut s q ∨ (u.putc < q ∧ q ≤ u.putc + n.toNat) := by
      intro q
      unfold Unwrapped.heldPut
      rw [exists_port_set hp rfl, exists_port_split hp, new]
      simp only [not_holdsPut hh, false_or]
      rw [or_comm]
      refine or_congr ⟨?_, ?_⟩ Iff.rfl <;> rintro ⟨j, r, hj, hr, hq⟩
      · exact ⟨j, r, hj, hr, (holdsPut_congr (hother j hj).2.2 r q).mp hq⟩
      · exact ⟨j, r, hj, hr, (holdsPut_congr (hother j hj).2.2 r q).mpr hq⟩
    have getE : ∀ q, u'.heldGet (State.setPort { s with putc := add32 p.ps n } (p.reserved p.ps)) q ↔ u.heldGet s q :=
      fun q => exists_port_same hp rfl _ _ (by simp [Unwrapped.holdsGet, nc])
        fun j r hj => holdsGet_congr (hother j hj).2.2 r q
    constructor <;> simp only [State.setPort_cap, State.setPort_slots, putE, getE, eP, eG, eg, ew]
    · exact H.gseqLow
    · exact H.pseqLow
    · exact H.residue
    · exact H.gap
    · have := H.pseqBound; omega
    · exact H.gseqBound
    · intro q a b c
      by_cases e : q ≤ u.putc
      · exact .inl (H.putCover q a b e)
      · exact .inr ⟨by omega, c⟩
    · rintro q a (b | b)
      · exact H.putAhead q a b
      · by_contra hlt
        have := add_le_of_mod_eq a H.pseq_residue (by omega)
        have := H.pseqBound; omega
    · exact H.getCover
    · exact H.getAhead
    · intro a b
      obtain ⟨i, r, hr, c, d, f⟩ := H.filled a b
      have hi : i ≠ s.active := by rintro rfl; rw [hp] at hr; cases hr; simp [hpc] at d
      exact (exists_port_set hp rfl _).mpr (.inr ⟨i, r, hi, hr, c, d, by rw [(hother i hi).2.2]; exact f⟩)
    · intro a b
      obtain ⟨i, r, hr, c, d, f⟩ := H.drained a b
      have hi : i ≠ s.active := by rintro rfl; rw [hp] at hr; cases hr; simp [hpc] at d
      exact (exists_port_set hp rfl _).mpr (.inr ⟨i, r, hi, hr, c, d, by rw [(hother i hi).2.2]; exact f⟩)
  · intro j r _ _ _ hk; rw [eg, ew]; exact hk

/-- A successful CAS on `GETC` (rule R118). -/
theorem protocolAt_reservedGet {u : Unwrapped} {s : State} {p : Port} {n : U32} (h : ProtocolAt u s)
    (hp : s.ports[s.active]? = some p) (hpc : p.pc = .reserve)
    (hop : (p.op = 0x03#8 ∧ n = 1#32) ∨ (p.op = 0x04#8 ∧ n = p.n)) (hgs : s.getc = p.gs) (hout : p.outItems = []) :
    ProtocolAt { u with getc := u.getc + n.toNat, pos := Function.update u.pos s.active (u.getc + 1) }
      (State.setPort { s with getc := add32 p.gs n } (p.reserved p.gs)) := by
  have hP := h.ports _ p hp
  obtain ⟨g1, g2, g3⟩ := hP.snapshotG (.inr hpc)
  obtain ⟨p1, p2, p3⟩ := hP.snapshotP hpc
  obtain ⟨a1, a2⟩ := hP.admitted hpc
  have hC := capacity_pos h.capacity
  have hCl : s.cap.toNat < 2 ^ 32 := s.cap.isLt
  have hoc := h.occupancy
  have egs : u.getc = u.gs s.active := by
    rw [h.cursorsLow.2, g1] at hgs; exact low_inj hgs (by omega) (by omega)
  have hocc : p.occ.toNat = min (u.ps s.active - u.gs s.active) s.cap.toNat := by
    rw [a1, est_toNat, g1, p1, sub32_low p2 (by omega)]
  have ho : consumerOp p.op = true := by rcases hop with ⟨e, _⟩ | ⟨e, _⟩ <;> simp [consumerOp, e]
  have nc : producerOp p.op = false := producerOp_of_consumerOp ho
  have hn : 1 ≤ n.toNat ∧ u.getc + n.toNat ≤ u.putc := by
    rcases hop with ⟨e, rfl⟩ | ⟨e, rfl⟩
    · have := a2.2.2.1 e; simp; omega
    · have := a2.2.2.2 e; omega
  have hrem : Port.remaining (p.reserved p.gs) = n.toNat := by
    rcases hop with ⟨e, rfl⟩ | ⟨e, rfl⟩ <;> simp [Port.remaining, e]
  have hh : Port.holding p = false := by simp [Port.holding, hpc]
  have hh' : Port.holding (p.reserved p.gs) = true := by simp [Port.holding]
  generalize hu : ({ u with getc := u.getc + n.toNat, pos := Function.update u.pos s.active (u.getc + 1) } : Unwrapped) = u'
  have eP : u'.putc = u.putc := by rw [← hu]
  have eG : u'.getc = u.getc + n.toNat := by rw [← hu]
  have eg : u'.gseq = u.gseq := by rw [← hu]
  have ew : u'.pseq = u.pseq := by rw [← hu]
  have ex : u'.pos s.active = u.getc + 1 := by rw [← hu]; simp
  have hother : ∀ j, j ≠ s.active → u'.gs j = u.gs j ∧ u'.ps j = u.ps j ∧ u'.pos j = u.pos j := by
    intro j hj; rw [← hu]; simp [hj]
  have new : ∀ q, u'.holdsGet s.active (p.reserved p.gs) q ↔ u.getc < q ∧ q ≤ u.getc + n.toNat := by
    intro q
    simp only [Unwrapped.holdsGet, hrem, hh', ex, Port.reserved_op, ho]
    constructor
    · rintro ⟨_, _, a, b⟩; omega
    · rintro ⟨a, b⟩; exact ⟨trivial, trivial, by omega, by omega⟩
  refine protocolAt_of_portMove (p' := p.reserved p.gs) h hp rfl rfl rfl rfl h.memory ?_ ?_ (by omega) (by omega) hother
    (h.window eP) ?_ (by rintro q ⟨a, _⟩; simp [nc] at a) (fun q hq => .inr ((new q).mp hq).1) ?_ ?_
  · refine ⟨by rw [eP]; exact h.cursorsLow.1, ?_⟩
    rw [eG, egs, State.setPort_getc, g1, add32_low]
  · omega
  · constructor
    · simp [labelExists, ho]
    · simp
    · simp
    · simp
    · intro _; rw [ex, eP, Port.reserved_pos, g1, add32_low, egs]; exact ⟨rfl, by omega⟩
    · intro _ hb; rcases hop with ⟨e, rfl⟩ | ⟨e, rfl⟩
      · simp [e] at hb
      · simp; omega
    · intro _ a; simp [nc] at a
    · intro _ _; rw [hrem, ex, eG]; omega
    · intro _ _; simp [Port.taken, hout]
    · intro _; exact HandshakeAt.of_polling (by simp [Port.inSlot]) (by simp)
  · intro k hk
    have H := h.slots k hk
    have getE : ∀ q, u'.heldGet (State.setPort { s with getc := add32 p.gs n } (p.reserved p.gs)) q ↔
        u.heldGet s q ∨ (u.getc < q ∧ q ≤ u.getc + n.toNat) := by
      intro q
      unfold Unwrapped.heldGet
      rw [exists_port_set hp rfl, exists_port_split hp, new]
      simp only [not_holdsGet hh, false_or]
      rw [or_comm]
      refine or_congr ⟨?_, ?_⟩ Iff.rfl <;> rintro ⟨j, r, hj, hr, hq⟩
      · exact ⟨j, r, hj, hr, (holdsGet_congr (hother j hj).2.2 r q).mp hq⟩
      · exact ⟨j, r, hj, hr, (holdsGet_congr (hother j hj).2.2 r q).mpr hq⟩
    have putE : ∀ q, u'.heldPut (State.setPort { s with getc := add32 p.gs n } (p.reserved p.gs)) q ↔ u.heldPut s q :=
      fun q => exists_port_same hp rfl _ _ (by simp [Unwrapped.holdsPut, nc])
        fun j r hj => holdsPut_congr (hother j hj).2.2 r q
    constructor <;> simp only [State.setPort_cap, State.setPort_slots, putE, getE, eP, eG, eg, ew]
    · exact H.gseqLow
    · exact H.pseqLow
    · exact H.residue
    · exact H.gap
    · exact H.pseqBound
    · have := H.gseqBound; omega
    · exact H.putCover
    · exact H.putAhead
    · intro q a b c
      by_cases e : q ≤ u.getc
      · exact .inl (H.getCover q a b e)
      · exact .inr ⟨by omega, c⟩
    · rintro q a (b | b)
      · exact H.getAhead q a b
      · by_contra hlt
        have := add_le_of_mod_eq a H.residue (by omega)
        have := H.gseqBound; omega
    · intro a b
      obtain ⟨i, r, hr, c, d, f⟩ := H.filled a b
      have hi : i ≠ s.active := by rintro rfl; rw [hp] at hr; cases hr; simp [hpc] at d
      exact (exists_port_set hp rfl _).mpr (.inr ⟨i, r, hi, hr, c, d, by rw [(hother i hi).2.2]; exact f⟩)
    · intro a b
      obtain ⟨i, r, hr, c, d, f⟩ := H.drained a b
      have hi : i ≠ s.active := by rintro rfl; rw [hp] at hr; cases hr; simp [hpc] at d
      exact (exists_port_set hp rfl _).mpr (.inr ⟨i, r, hi, hr, c, d, by rw [(hother i hi).2.2]; exact f⟩)
  · intro j r _ _ _ hk; rw [eg, ew]; exact hk

end Sys2Proof.Safety
end

