-- ==== Sys2Proof/Tests/Slice0.lean ====
section
/-! SUPPORT. The model's own tests: expected values from spec/95_test_vectors.md (ids in the comments) or worked out by
hand from the rules named; and, for every statement with hypotheses, a witness that meets them together. -/

namespace Sys2Proof.Tests

open Sys2Proof.Machine Sys2Proof.Safety

/-! ### Helpers -/

/-- The next state, if there is one. -/
def next? : Result → Option State
  | .next s => some s
  | .fault _ => none
  | .refused _ => none

/-- The fault, if there is one. -/
def fault? : Result → Option Fault
  | .next _ => none
  | .fault f => some f
  | .refused _ => none

/-- A block of capacity 4 (`RESET 4`) with these cursors, slots, ports and turns. -/
def block (putc getc : U32) (slots : List (Nat × Slot)) (ports : List Port) (sched : List Turn) : State :=
  { State.resetWith 4#32 0 with putc := putc, getc := getc, slots := slots, ports := ports, sched := sched }

/-- An idle port with these commands to present. -/
def idle (cmds : List Command) : Port := { Port.reset with cmds := cmds }

/-- A port inside operation `op` at phase `pc`, with this snapshot, count and position. -/
def busy (op : BitVec 8) (pc : Phase) (gs ps occ n pos : U32) : Port :=
  { Port.reset with
    op := op, pc := pc, arg := 2#32, gs := gs, ps := ps, occ := occ, n := n, pos := pos, inItems := [7, 8] }

/-- What one step of `i` makes of port 0. -/
def port0 (i : Instr) (s : State) : Option Port := (next? (exec i s)).bind fun t => t.ports[0]?

/-! ### WellFormed refuses each ill-formed term (R5, R83) -/

theorem test_wellFormed_put : Instr.wellFormed 8 .put [0xFF] = true := by decide
theorem test_wellFormed_refuses_lane_too_long : Instr.wellFormed 8 .put [1, 2] = false := by decide
theorem test_wellFormed_refuses_lane_of_get : Instr.wellFormed 8 .get [1] = false := by decide
theorem test_wellFormed_refuses_wide_item : Instr.wellFormed 8 (.putb 2#32) [1, 0x100] = false := by decide
theorem test_wellFormed_refuses_zero_width : Instr.wellFormed 0 .put [] = false := by decide
theorem test_laneCountOk_refuses : laneCountOk (.putb 2#32) [1, 2, 3] = false := by decide
theorem test_laneWidthOk_refuses : laneWidthOk 3 [7, 8] = false := by decide
theorem test_paramsOk_refuses_no_port : paramsOk 8 0 = false := by decide
theorem test_paramsOk_refuses_no_width : paramsOk 0 2 = false := by decide

/-! ### Decoding and encoding, words written out from R80 and R85 (EN1 to EN18) -/

theorem test_decode_put : decode 0x0100000000000000#64 = some .put := by decide
theorem test_decode_putb : decode 0x0200000000000002#64 = some (.putb 2#32) := by decide
theorem test_decode_putb_all_ones : decode 0x02000000FFFFFFFF#64 = some (.putb 0xFFFFFFFF#32) := by decide
theorem test_decode_get : decode 0x0300000000000000#64 = some .get := by decide
theorem test_decode_getb : decode 0x0400000000000005#64 = some (.getb 5#32) := by decide
theorem test_decode_occ : decode 0x0500000000000000#64 = some .occ := by decide
theorem test_decode_cap : decode 0x0600000000000000#64 = some .cap := by decide
theorem test_decode_stat : decode 0x0700000000000000#64 = some .stat := by decide
theorem test_decode_refuses_opcode_zero : illegalWord 0#64 = some (.opcode 0#8) := by decide
theorem test_decode_refuses_opcode_eight : illegalWord 0x0800000000000000#64 = some (.opcode 8#8) := by decide
theorem test_decode_refuses_reserved :
    illegalWord 0x0200800000000002#64 = some (.reserved 0x008000#24) := by decide
theorem test_decode_refuses_argument :
    illegalWord 0x0300000000000007#64 = some (.argument 0x03#8 7#32) := by decide
theorem test_encode_getb : encode (.getb 5#32) = 0x0400000000000005#64 := by decide
theorem test_decodeTableWord_high_byte : decodeTableWord 64 0x0500000000000000 = some .occ := by decide
theorem test_decodeTableWord_short : decodeTableWord 32 0x0500000000000000 = none := by decide

/-! ### Arithmetic, capacity, reset (sections 2.1 to 2.3) -/

theorem test_add32_wraps : add32 0xFFFFFFFE#32 3#32 = 1#32 := by decide
theorem test_sub32_wraps : sub32 1#32 0xFFFFFFFE#32 = 3#32 := by decide
theorem test_norm_small : [0#32, 1#32, 2#32, 3#32, 4#32, 5#32, 8#32, 9#32, 17#32, 1000#32].map norm =
    [1#32, 1#32, 2#32, 4#32, 4#32, 8#32, 8#32, 16#32, 32#32, 1024#32] := by decide
theorem test_norm_large : [0x10000#32, 0x10001#32, 0x7FFFFFFF#32, 0x80000000#32].map norm =
    [0x10000#32, 0x20000#32, 0x80000000#32, 0x80000000#32] := by decide
theorem test_reset_refused : (resetCfgErr 0x80000001#32, resetCap 0x80000001#32, resetMask 0x80000001#32) =
    (true, 0#32, 0#32) := by decide
theorem test_reset_slots : (List.range 5).map (State.resetWith 3#32 1).slot? =
    [some ⟨4#32, 4#32, none⟩, some ⟨1#32, 1#32, none⟩, some ⟨2#32, 2#32, none⟩, some ⟨3#32, 3#32, none⟩,
      none] := by decide
/-- `State.reset` is the block after `RESET 4` with two idle ports (notes/assumptions/1.md, 2.md). -/
theorem test_reset : (State.reset.cap, State.reset.mask, State.reset.putc, State.reset.getc,
    State.reset.ports.map (fun p => (p.pc, p.rsp.rv))) =
    (4#32, 3#32, 0#32, 0#32, [(.idle, false), (.idle, false)]) := by decide

/-! ### Slot states, slot tests (ST1 to ST13) and the response header (section 2.4) -/

theorem test_slotStates : [(⟨1#32, 1#32, none⟩ : Slot), ⟨1#32, 1#32, some 7⟩, ⟨5#32, 1#32, some 7⟩, ⟨5#32, 1#32, none⟩,
      ⟨3#32, 0xFFFFFFFF#32, some 7⟩, ⟨6#32, 1#32, some 7⟩].map (slotState 4#32) =
    [.writable 1#32, .filled 1#32 7, .readable 1#32 7, .drained 1#32, .readable 0xFFFFFFFF#32 7,
      .outside] := by decide
theorem test_ready : (readyForWrite ⟨1#32, 1#32, none⟩ 1#32, readyForWrite ⟨5#32, 1#32, some 7⟩ 5#32,
      readyForRead 4#32 ⟨5#32, 1#32, some 7⟩ 1#32, readyForRead 4#32 ⟨5#32, 5#32, none⟩ 1#32,
      readyForRead 4#32 ⟨3#32, 0xFFFFFFFF#32, some 7⟩ 0xFFFFFFFF#32) =
    (true, false, true, false, true) := by decide
theorem test_slotIndex : [0xFFFFFFFE#32, 0xFFFFFFFF#32, 0#32, 1#32].map (slotIndex 3#32) = [2, 3, 0, 1] := by
  decide
theorem test_headers : [Rsp.answer true 1#32 3#32 [] [], Rsp.rejected 3#32, Rsp.illegal].map Rsp.header =
    [0x000000010000000100000003#96, 0x000000000000000000000003#96, 0x000000020000000000000000#96] := by decide

/-! ### One step of each command -/

/-- PUT at the full threshold (P3: 3 >= 3). -/
theorem test_put_full : (port0 .put (block 3#32 0#32 [] [busy 0x01#8 .snapP 0#32 0#32 0#32 0#32 0#32] [])).map (·.rsp) =
    some ⟨true, false, false, 0#32, 3#32, [], []⟩ := by decide
/-- PUT stores its item and publishes one lap on (P1, end state `S1(5,1,A)`). -/
theorem test_put_publish : (next? (exec .put (block 1#32 0#32 [(1, ⟨1#32, 1#32, some 7⟩)]
      [busy 0x01#8 .publish 0#32 0#32 0#32 1#32 1#32] []))).map (fun t => (t.slots, t.ports.map (·.rsp))) =
    some ([(1, ⟨5#32, 1#32, some 7⟩)], [⟨true, true, false, 1#32, 1#32, [], []⟩]) := by decide
/-- PUTB fills up to `CAP`, past PUT's threshold (PB3: one free slot). -/
theorem test_putb_partial :
    (port0 (.putb 2#32) (block 3#32 0#32 [] [busy 0x02#8 .snapP 0#32 0#32 0#32 0#32 0#32] [])).map
      (fun p => (p.pc, p.n, p.occ)) = some (.reserve, 1#32, 3#32) := by decide
/-- PUTB goes on with its next item (program A, line 7). -/
theorem test_putb_next : (port0 (.putb 2#32) (block 5#32 1#32 [(0, ⟨4#32, 4#32, some 7⟩), (1, ⟨5#32, 5#32, none⟩)]
      [busy 0x02#8 .publish 1#32 3#32 2#32 2#32 4#32] [])).map (fun p => (p.pc, p.k, p.pos)) =
    some (.pollG, 1#32, 5#32) := by decide
/-- GET on an empty block (GT2). -/
theorem test_get_empty : (port0 .get (block 5#32 5#32 [] [busy 0x03#8 .snapP 5#32 0#32 0#32 0#32 0#32] [])).map (·.rsp) =
    some ⟨true, false, false, 0#32, 0#32, [], []⟩ := by decide
/-- GET releases the slot for its next lap (GT8: position 0, across the wrap). -/
theorem test_get_release : (next? (exec .get (block 0#32 0#32 [(0, ⟨4#32, 0#32, none⟩)]
      [{ busy 0x03#8 .publish 0xFFFFFFFF#32 0#32 1#32 1#32 0#32 with outItems := [7] }] []))).map
      (fun t => (t.slots, t.ports.map (·.rsp))) =
    some ([], [⟨true, true, false, 1#32, 0#32, [7], []⟩]) := by decide
/-- GETB asks for more than there is (GB1: 5 asked, 4 there). -/
theorem test_getb_partial : (port0 (.getb 5#32) (block 5#32 1#32 []
      [{ busy 0x04#8 .snapP 1#32 0#32 0#32 0#32 0#32 with arg := 5#32 }] [])).map (fun p => (p.pc, p.n)) =
    some (.reserve, 4#32) := by decide
/-- GETB takes items in position order. -/
theorem test_getb_take : (port0 (.getb 2#32) (block 5#32 3#32 [(3, ⟨7#32, 3#32, some 9⟩)]
      [{ busy 0x04#8 .xfer 1#32 5#32 4#32 2#32 3#32 with outItems := [8] }] [])).map (fun p => (p.pc, p.outItems)) =
    some (.clear, [8, 9]) := by decide
/-- OCC clamps a torn snapshot (Q3: raw 7, answer 4). -/
theorem test_occ_clamped : (port0 .occ (block 7#32 3#32 [] [busy 0x05#8 .snapP 0#32 0#32 0#32 0#32 0#32] [])).map
      (·.rsp) = some ⟨true, true, false, 0#32, 4#32, [], []⟩ := by decide
/-- CAP (Q5). -/
theorem test_cap : (port0 .cap (block 0#32 0#32 [] [busy 0x06#8 .capq 0#32 0#32 0#32 0#32 0#32] [])).map (·.rsp) =
    some ⟨true, true, false, 0#32, 0#32, [], [4#32]⟩ := by decide
/-- STAT (Q8). -/
theorem test_stat : (port0 .stat (block 2#32 1#32 [] [busy 0x07#8 .snapP 1#32 0#32 0#32 0#32 0#32] [])).map (·.rsp) =
    some ⟨true, true, false, 0#32, 1#32, [], [4#32, 3#32, 2#32, 1#32]⟩ := by decide
/-- The host's fetch word is run by the very next step. -/
theorem test_fetchWord : ((next? (step (State.reset.withFetchWord 64 0x0400000000000005))).bind
      fun t => t.ports[0]?).map (fun p => (p.pc, p.op, p.arg)) = some (.snapG, 0x04#8, 5#32) := by decide
/-- A turn of a port that does not exist is refused (R172). -/
theorem test_noSuchPort : next? (step (block 0#32 0#32 [] [idle []] [.port 1])) = none := by decide
/-- The host's loops (R89): `PUTB! [1, 2, 3]` after one accepted item, `GETB! 4` after three, `PUT!` after `OK = 1`. -/
theorem test_retry : (retryPutb [1, 2, 3] 1, retryGetb 4#32 [5, 6, 7], retryPut 5 (some (Rsp.rejected 3#32)),
      retryGet (some (Rsp.answer true 1#32 0#32 [5] []))) =
    (some (asmPutb [2, 3]), some (asmGetb 1#32), some (asmPut 5), none) := by decide
/-- A response can be read only while `RV = 1` (R84, R185). -/
theorem test_readResponse : ((idle []).readResponse, (Port.respond (idle []) (Rsp.rejected 3#32)).readResponse) =
    (none, some (3#96, [], [])) := by decide

/-! ### Witnesses: states that meet the hypotheses of the statements, clause by clause, at boundary values -/

theorem four_ok : capacityOk 4#32 3#32 := ⟨⟨2, by decide, by decide⟩, by decide⟩

/-- Two items waiting in positions 1 and 2 of a block of four. -/
def twoWaiting : List (Nat × Slot) := [(1, ⟨5#32, 1#32, some 7⟩), (2, ⟨6#32, 2#32, some 8⟩)]

theorem witness_EncodeOfDecode : decode 0x04000000FFFFFFFF#64 = some (.getb 0xFFFFFFFF#32) := by decide

theorem witness_OpcodeMapAgreesWithDecoder :
    decode 0x0200000000000002#64 = some (.putb 2#32) ∧
      (⟨0x02#8, 0x0200000000000000#64, 0xFFFFFFFF00000000#64⟩ : OpcodeRow) ∈ opcodeMap ∧
      OpcodeRow.selectedBy ⟨0x02#8, 0x0200000000000000#64, 0xFFFFFFFF00000000#64⟩ 0x0200000000000002#64 = true := by
  decide

/-- One port with these commands, its turn next. -/
def presenting (cmds : List Command) (sched : List Turn) : State := block 2#32 0#32 twoWaiting [idle cmds] sched

theorem witness_StepRunsTheCommand_idle :
    (presenting [asmGet] [.port 0]).sched = .port 0 :: [] ∧
      (presenting [asmGet] [.port 0]).ports[0]? = some (idle [asmGet]) ∧
      (idle [asmGet]).pc = .idle ∧ (idle [asmGet]).cmds = asmGet :: [] ∧ decode asmGet.word = some .get := by decide

theorem witness_StepRunsTheCommand_waiting :
    (presenting [] [.port 0]).sched = .port 0 :: [] ∧ (presenting [] [.port 0]).ports[0]? = some (idle []) ∧
      (idle []).pc = .idle ∧ (idle []).cmds = [] := by decide

theorem witness_StepRunsTheCommand_busy :
    (block 2#32 0#32 [] [busy 0x02#8 .reserve 0#32 2#32 2#32 2#32 0#32] [.port 0]).sched = .port 0 :: [] ∧
      (block 2#32 0#32 [] [busy 0x02#8 .reserve 0#32 2#32 2#32 2#32 0#32] [.port 0]).ports[0]? =
        some (busy 0x02#8 .reserve 0#32 2#32 2#32 2#32 0#32) ∧
      (busy 0x02#8 .reserve 0#32 2#32 2#32 2#32 0#32).pc ≠ .idle ∧
      Instr.ofLatched (busy 0x02#8 .reserve 0#32 2#32 2#32 2#32 0#32).op
        (busy 0x02#8 .reserve 0#32 2#32 2#32 2#32 0#32).arg = some (.putb 2#32) := by decide

theorem witness_StepRunsTheCommand_freeTurn :
    (presenting [asmGet] []).sched = [] ∧
      0 = Config.freeTurn (presenting [asmGet] []).freeTurns % (presenting [asmGet] []).ports.length ∧
      (presenting [asmGet] []).ports[0]? = some (idle [asmGet]) :=
  ⟨rfl, (Nat.mod_one _).symm, rfl⟩

theorem witness_FetchWordRunsNext :
    State.reset.ports = Port.reset :: [Port.reset] ∧ decodeTableWord 64 0x0700000000000000 = some .stat := by decide

theorem witness_IssueFollowsR91_legal :
    (presenting [asmPutb [7, 8]] []).ports[(presenting [asmPutb [7, 8]] []).active]? = some (idle [asmPutb [7, 8]]) ∧
      (idle [asmPutb [7, 8]]).pc = .idle ∧ (idle [asmPutb [7, 8]]).cmds = asmPutb [7, 8] :: [] ∧
      decode (asmPutb [7, 8]).word = some (.putb 2#32) ∧ (presenting [asmPutb [7, 8]] []).cfgErr = false := by decide

/-- A refused construction with a command presented. -/
def refusing : State := { State.resetWith 0x80000001#32 0 with ports := [idle [asmGet]], sched := [.port 0] }

theorem witness_IssueFollowsR91_refused :
    refusing.ports[refusing.active]? = some (idle [asmGet]) ∧ (idle [asmGet]).pc = .idle ∧
      (idle [asmGet]).cmds = asmGet :: [] ∧ decode asmGet.word = some .get ∧ refusing.cfgErr = true := by decide

theorem witness_EveryPresentedWordHasOneOutcome_idle :
    (presenting [⟨0#64, []⟩] [.port 0]).sched = .port 0 :: [] ∧
      (presenting [⟨0#64, []⟩] [.port 0]).ports[0]? = some (idle [⟨0#64, []⟩]) ∧
      (idle [⟨0#64, []⟩]).cmds = ⟨0#64, []⟩ :: [] ∧ (idle [⟨0#64, []⟩]).pc = .idle := by decide

theorem witness_EveryPresentedWordHasOneOutcome_busy :
    ∃ p t p', (block 0#32 0#32 [] [p] [.port 0]).ports[0]? = some p ∧ p.cmds = asmGet :: [] ∧ p.pc ≠ .idle ∧
      step (block 0#32 0#32 [] [p] [.port 0]) = .next t ∧ t.ports[0]? = some p' :=
  ⟨{ busy 0x05#8 .snapG 0#32 0#32 0#32 0#32 0#32 with cmds := [asmGet] }, _, _, rfl, by decide, by decide, rfl, rfl⟩

theorem witness_IllegalWordOnlyAnswers :
    (presenting [⟨0x0800000000000000#64, []⟩] [.port 0]).sched = .port 0 :: [] ∧
      (presenting [⟨0x0800000000000000#64, []⟩] [.port 0]).ports[0]? = some (idle [⟨0x0800000000000000#64, []⟩]) ∧
      (idle [⟨0x0800000000000000#64, []⟩]).pc = .idle ∧ decode 0x0800000000000000#64 = none ∧
      ∃ t p', step (presenting [⟨0x0800000000000000#64, []⟩] [.port 0]) = .next t ∧ t.ports[0]? = some p' ∧
        (idle [⟨0x0800000000000000#64, []⟩]).rsp.ill = false ∧ p'.rsp.ill = true :=
  ⟨by decide, by decide, by decide, by decide, _, _, rfl, rfl, by decide, by decide⟩

theorem witness_IllegalWordOnlyAnswers_refused :
    refusing.sched = .port 0 :: [] ∧ refusing.ports[0]? = some (idle [asmGet]) ∧ refusing.cfgErr = true := by decide

theorem witness_NormIsLeastPowerOfTwo :
    (0#32).toNat ≤ 0x80000000 ∧ (1#32).toNat ≤ 0x80000000 ∧ (0x80000000#32).toNat ≤ 0x80000000 := by decide

theorem witness_OversizeRequestIsRefused :
    0x80000000 < (0x80000001#32).toNat ∧ 0 < 1 ∧ (State.resetWith 0x80000001#32 1).ports = [Port.reset] := by decide

theorem witness_ResetValuesOfR40 :
    (4#32).toNat ≤ 0x80000000 ∧ 1 ≤ 1 ∧ 1 < (norm 4#32).toNat ∧ 3 < (norm 4#32).toNat ∧
      (State.resetWith 4#32 1).ports = [Port.reset] := by decide

theorem witness_ResetAbandonsEverything :
    ∃ t p', step (block 1#32 0#32 twoWaiting [busy 0x03#8 .clear 0#32 0#32 0#32 1#32 1#32] [.reset 5#32]) = .next t ∧
      (block 1#32 0#32 twoWaiting [busy 0x03#8 .clear 0#32 0#32 0#32 1#32 1#32] [.reset 5#32]).ports[0]? =
        some (busy 0x03#8 .clear 0#32 0#32 0#32 1#32 1#32) ∧ t.ports[0]? = some p' :=
  ⟨_, _, rfl, rfl, rfl⟩

/-- Port 0 inside operation `op` at phase `pc`, with this `PUTC` and two items waiting. -/
def inside (op : BitVec 8) (pc : Phase) (putc getc : U32) (n pos : U32) : State :=
  block putc getc twoWaiting [busy op pc 0#32 2#32 2#32 n pos] []

/-- PUT: every phase; both outcomes of SNAP_P at the threshold (3 and 2 of 4); both of RESERVE; a slot. -/
theorem witness_PutFollowsItsSteps :
    (∀ pc ∈ [Phase.snapG, .snapP, .reserve, .pollG, .pollP, .xfer, .publish],
      (inside 0x01#8 pc 2#32 0#32 1#32 3#32).ports[(inside 0x01#8 pc 2#32 0#32 1#32 3#32).active]? =
        some (busy 0x01#8 pc 0#32 2#32 2#32 1#32 3#32) ∧
      (busy 0x01#8 pc 0#32 2#32 2#32 1#32 3#32).op = 0x01#8 ∧ (busy 0x01#8 pc 0#32 2#32 2#32 1#32 3#32).pc = pc) ∧
    (3#32).toNat = min ((inside 0x01#8 .snapP 3#32 0#32 1#32 3#32).putc - 0#32).toNat (4#32).toNat ∧
    (inside 0x01#8 .snapP 3#32 0#32 1#32 3#32).cap.toNat - 1 ≤ (3#32).toNat ∧
    (2#32).toNat = min ((inside 0x01#8 .snapP 2#32 0#32 1#32 3#32).putc - 0#32).toNat (4#32).toNat ∧
    (2#32).toNat < (inside 0x01#8 .snapP 2#32 0#32 1#32 3#32).cap.toNat - 1 ∧
    (inside 0x01#8 .reserve 2#32 0#32 1#32 3#32).putc = 2#32 ∧ (inside 0x01#8 .reserve 3#32 0#32 1#32 3#32).putc ≠ 2#32 ∧
    (inside 0x01#8 .xfer 3#32 0#32 1#32 3#32).slot? (slotIndex (inside 0x01#8 .xfer 3#32 0#32 1#32 3#32).mask 3#32) =
      some ⟨3#32, 3#32, none⟩ := by decide

/-- PUTB: every phase; `n = 0` at a full block and the last free slot; both of RESERVE; both ends of a batch. -/
theorem witness_PutbFollowsItsSteps :
    (∀ pc ∈ [Phase.snapG, .snapP, .reserve, .pollG, .pollP, .xfer, .publish],
      (inside 0x02#8 pc 2#32 0#32 2#32 3#32).ports[(inside 0x02#8 pc 2#32 0#32 2#32 3#32).active]? =
        some (busy 0x02#8 pc 0#32 2#32 2#32 2#32 3#32) ∧
      (busy 0x02#8 pc 0#32 2#32 2#32 2#32 3#32).op = 0x02#8 ∧ (busy 0x02#8 pc 0#32 2#32 2#32 2#32 3#32).pc = pc) ∧
    (4#32).toNat = min ((inside 0x02#8 .snapP 4#32 0#32 2#32 3#32).putc - 0#32).toNat (4#32).toNat ∧
    (0#32).toNat = min (2#32).toNat ((4#32).toNat - (4#32).toNat) ∧
    (3#32).toNat = min ((inside 0x02#8 .snapP 3#32 0#32 2#32 3#32).putc - 0#32).toNat (4#32).toNat ∧
    (1#32).toNat = min (2#32).toNat ((4#32).toNat - (3#32).toNat) ∧
    (inside 0x02#8 .reserve 2#32 0#32 2#32 3#32).putc = 2#32 ∧ (inside 0x02#8 .reserve 3#32 0#32 2#32 3#32).putc ≠ 2#32 ∧
    (inside 0x02#8 .xfer 4#32 0#32 2#32 3#32).slot? (slotIndex (inside 0x02#8 .xfer 4#32 0#32 2#32 3#32).mask 3#32) =
      some ⟨3#32, 3#32, none⟩ ∧
    (busy 0x02#8 .publish 0#32 2#32 2#32 2#32 3#32).k.toNat + 1 < (busy 0x02#8 .publish 0#32 2#32 2#32 2#32 3#32).n.toNat ∧
    (busy 0x02#8 .publish 0#32 2#32 2#32 1#32 3#32).n.toNat ≤ (busy 0x02#8 .publish 0#32 2#32 2#32 1#32 3#32).k.toNat + 1 := by
  decide

/-- GET: every phase; both outcomes of SNAP_P; both of RESERVE; a slot with an item. -/
theorem witness_GetFollowsItsSteps :
    (∀ pc ∈ [Phase.snapG, .snapP, .reserve, .pollG, .pollP, .xfer, .clear, .publish],
      (inside 0x03#8 pc 2#32 0#32 1#32 1#32).ports[(inside 0x03#8 pc 2#32 0#32 1#32 1#32).active]? =
        some (busy 0x03#8 pc 0#32 2#32 2#32 1#32 1#32) ∧
      (busy 0x03#8 pc 0#32 2#32 2#32 1#32 1#32).op = 0x03#8 ∧ (busy 0x03#8 pc 0#32 2#32 2#32 1#32 1#32).pc = pc) ∧
    (0#32).toNat = min ((inside 0x03#8 .snapP 0#32 0#32 1#32 1#32).putc - 0#32).toNat (4#32).toNat ∧
    (1#32).toNat = min ((inside 0x03#8 .snapP 1#32 0#32 1#32 1#32).putc - 0#32).toNat (4#32).toNat ∧
    (inside 0x03#8 .reserve 2#32 0#32 1#32 1#32).getc = 0#32 ∧ (inside 0x03#8 .reserve 2#32 1#32 1#32 1#32).getc ≠ 0#32 ∧
    (inside 0x03#8 .xfer 2#32 1#32 1#32 1#32).slot? (slotIndex (inside 0x03#8 .xfer 2#32 1#32 1#32 1#32).mask 1#32) =
      some ⟨5#32, 1#32, some 7⟩ := by decide

/-- GETB: every phase; `n = 0` and a count cut by the occupancy; both of RESERVE; both ends of a batch. -/
theorem witness_GetbFollowsItsSteps :
    (∀ pc ∈ [Phase.snapG, .snapP, .reserve, .pollG, .pollP, .xfer, .clear, .publish],
      (inside 0x04#8 pc 2#32 0#32 2#32 1#32).ports[(inside 0x04#8 pc 2#32 0#32 2#32 1#32).active]? =
        some (busy 0x04#8 pc 0#32 2#32 2#32 2#32 1#32) ∧
      (busy 0x04#8 pc 0#32 2#32 2#32 2#32 1#32).op = 0x04#8 ∧ (busy 0x04#8 pc 0#32 2#32 2#32 2#32 1#32).pc = pc) ∧
    (0#32).toNat = min ((inside 0x04#8 .snapP 0#32 0#32 2#32 1#32).putc - 0#32).toNat (4#32).toNat ∧
    (0#32).toNat = min (2#32).toNat (0#32).toNat ∧
    (1#32).toNat = min ((inside 0x04#8 .snapP 1#32 0#32 2#32 1#32).putc - 0#32).toNat (4#32).toNat ∧
    (1#32).toNat = min (2#32).toNat (1#32).toNat ∧
    (inside 0x04#8 .reserve 2#32 0#32 2#32 1#32).getc = 0#32 ∧ (inside 0x04#8 .reserve 2#32 1#32 2#32 1#32).getc ≠ 0#32 ∧
    (inside 0x04#8 .xfer 2#32 1#32 2#32 1#32).slot? (slotIndex (inside 0x04#8 .xfer 2#32 1#32 2#32 1#32).mask 1#32) =
      some ⟨5#32, 1#32, some 7⟩ ∧
    (busy 0x04#8 .publish 0#32 2#32 2#32 2#32 1#32).k.toNat + 1 < (busy 0x04#8 .publish 0#32 2#32 2#32 2#32 1#32).n.toNat ∧
    (busy 0x04#8 .publish 0#32 2#32 2#32 1#32 1#32).n.toNat ≤ (busy 0x04#8 .publish 0#32 2#32 2#32 1#32 1#32).k.toNat + 1 := by
  decide

/-- OCC, STAT, CAP: every phase, with the estimate at its clamp. -/
theorem witness_OccStatCapFollowTheirSteps :
    (∀ pc ∈ [Phase.snapG, .snapP], ∀ op ∈ [0x05#8, 0x07#8],
      (inside op pc 7#32 3#32 0#32 0#32).ports[(inside op pc 7#32 3#32 0#32 0#32).active]? =
        some (busy op pc 0#32 2#32 2#32 0#32 0#32) ∧
      (busy op pc 0#32 2#32 2#32 0#32 0#32).op = op ∧ (busy op pc 0#32 2#32 2#32 0#32 0#32).pc = pc) ∧
    (4#32).toNat = min ((inside 0x05#8 .snapP 7#32 3#32 0#32 0#32).putc - 0#32).toNat (4#32).toNat ∧
    (inside 0x06#8 .capq 7#32 3#32 0#32 0#32).ports[(inside 0x06#8 .capq 7#32 3#32 0#32 0#32).active]? =
      some (busy 0x06#8 .capq 0#32 2#32 2#32 0#32 0#32) ∧
    (busy 0x06#8 .capq 0#32 2#32 2#32 0#32 0#32).op = 0x06#8 ∧ (busy 0x06#8 .capq 0#32 2#32 2#32 0#32 0#32).pc = .capq := by
  decide

/-- A consumer at XFER on an empty slot, GET and GETB. -/
theorem witness_EmptySlotReadFaults :
    ∀ op ∈ [0x03#8, 0x04#8],
      (inside op .xfer 3#32 3#32 1#32 3#32).ports[(inside op .xfer 3#32 3#32 1#32 3#32).active]? =
        some (busy op .xfer 0#32 2#32 2#32 1#32 3#32) ∧
      (busy op .xfer 0#32 2#32 2#32 1#32 3#32).op = op ∧ (busy op .xfer 0#32 2#32 2#32 1#32 3#32).pc = .xfer ∧
      (inside op .xfer 3#32 3#32 1#32 3#32).slot?
        (slotIndex (inside op .xfer 3#32 3#32 1#32 3#32).mask (busy op .xfer 0#32 2#32 2#32 1#32 3#32).pos) =
        some ⟨3#32, 3#32, none⟩ ∧
      (fault? (exec (if op = 0x03#8 then .get else .getb 2#32) (inside op .xfer 3#32 3#32 1#32 3#32))) =
        some (.emptySlotRead 3#32) := by decide

/-- PUT alone at its last admitted occupancy, 2 of 4. -/
theorem witness_PutAloneCompletes :
    ∃ s : State, s.cfgErr = false ∧ capacityOk s.cap s.mask ∧ Memory.wf s.cap s.slots = true ∧
      s.ports[0]? = some (idle [asmPut 9]) ∧ (idle [asmPut 9]).pc = .idle ∧ (idle [asmPut 9]).cmds = asmPut 9 :: [] ∧
      s.sched = List.replicate 8 (.port 0) ++ [] ∧ (sub32 s.putc s.getc).toNat + 1 < s.cap.toNat ∧
      readyForWrite (slotOf s (add32 s.putc 1#32)) (add32 s.putc 1#32) = true :=
  ⟨presenting [asmPut 9] (List.replicate 8 (.port 0)), by decide, four_ok, by decide, by decide, by decide, by decide,
    by decide, by decide, by decide⟩

/-- GET alone on the last item, position 0 across the wrap (GT8). -/
theorem witness_GetAloneCompletes :
    ∃ s : State, s.cfgErr = false ∧ capacityOk s.cap s.mask ∧ Memory.wf s.cap s.slots = true ∧
      s.ports[0]? = some (idle [asmGet]) ∧ (idle [asmGet]).pc = .idle ∧ (idle [asmGet]).cmds = asmGet :: [] ∧
      s.sched = List.replicate 9 (.port 0) ++ [] ∧ 1 ≤ (sub32 s.putc s.getc).toNat ∧
      (sub32 s.putc s.getc).toNat ≤ s.cap.toNat ∧
      slotState s.cap (slotOf s (add32 s.getc 1#32)) = .readable (add32 s.getc 1#32) 7 :=
  ⟨block 0#32 0xFFFFFFFF#32 [(0, ⟨4#32, 0#32, some 7⟩)] [idle [asmGet]] (List.replicate 9 (.port 0)), by decide, four_ok,
    by decide, by decide, by decide, by decide, by decide, by decide, by decide, by decide⟩

/-- PUTB of three items with one free slot (PB3). -/
theorem witness_PutbAloneCompletes_partial :
    ∃ s : State, s.cfgErr = false ∧ capacityOk s.cap s.mask ∧ Memory.wf s.cap s.slots = true ∧
      s.ports[0]? = some (idle [asmPutb [7, 8, 9]]) ∧ (idle [asmPutb [7, 8, 9]]).pc = .idle ∧
      (idle [asmPutb [7, 8, 9]]).cmds = asmPutb [7, 8, 9] :: [] ∧ [7, 8, 9].length < 2 ^ 32 ∧
      (sub32 s.putc s.getc).toNat ≤ s.cap.toNat ∧
      1 = min [7, 8, 9].length (s.cap.toNat - (sub32 s.putc s.getc).toNat) ∧
      s.sched = List.replicate (4 + 4 * 1) (.port 0) ++ [] ∧
      ∀ k, k < 1 → readyForWrite (slotOf s (positionAfter s.putc k)) (positionAfter s.putc k) = true :=
  ⟨block 3#32 0#32 [] [idle [asmPutb [7, 8, 9]]] (List.replicate 8 (.port 0)), by decide, four_ok, by decide, by decide,
    by decide, by decide, by decide, by decide, by decide, by decide, by decide⟩

/-- PUTB of four items on an empty block (PB2). -/
theorem witness_PutbAloneCompletes_whole :
    ∃ s : State, s.cfgErr = false ∧ capacityOk s.cap s.mask ∧ Memory.wf s.cap s.slots = true ∧
      s.ports[0]? = some (idle [asmPutb [6, 7, 8, 9]]) ∧ (idle [asmPutb [6, 7, 8, 9]]).pc = .idle ∧
      (idle [asmPutb [6, 7, 8, 9]]).cmds = asmPutb [6, 7, 8, 9] :: [] ∧
      (sub32 s.putc s.getc).toNat ≤ s.cap.toNat ∧
      4 = min [6, 7, 8, 9].length (s.cap.toNat - (sub32 s.putc s.getc).toNat) ∧
      s.sched = List.replicate (4 + 4 * 4) (.port 0) ++ [] ∧
      ∀ k, k < 4 → readyForWrite (slotOf s (positionAfter s.putc k)) (positionAfter s.putc k) = true :=
  ⟨block 0#32 0#32 [] [idle [asmPutb [6, 7, 8, 9]]] (List.replicate 20 (.port 0)), by decide, four_ok, by decide, by decide,
    by decide, by decide, by decide, by decide, by decide, by decide⟩

/-- GETB of more than there is. -/
theorem witness_GetbAloneCompletes :
    ∃ s : State, s.cfgErr = false ∧ capacityOk s.cap s.mask ∧ Memory.wf s.cap s.slots = true ∧
      s.ports[0]? = some (idle [asmGetb 5#32]) ∧ (idle [asmGetb 5#32]).pc = .idle ∧
      (idle [asmGetb 5#32]).cmds = asmGetb 5#32 :: [] ∧ (sub32 s.putc s.getc).toNat ≤ s.cap.toNat ∧
      2 = min (5#32).toNat (sub32 s.putc s.getc).toNat ∧ [7, 8].length = 2 ∧
      s.sched = List.replicate (4 + 5 * 2) (.port 0) ++ [] ∧
      ∀ k, k < 2 → slotOf s (positionAfter s.getc k) =
        ⟨add32 (positionAfter s.getc k) s.cap, positionAfter s.getc k, some ([7, 8].getD k 0)⟩ :=
  ⟨presenting [asmGetb 5#32] (List.replicate 14 (.port 0)), by decide, four_ok, by decide, by decide, by decide, by decide,
    by decide, by decide, by decide, by decide, by decide⟩

/-- GETB of fewer than there are. -/
theorem witness_GetbAloneCompletes_below :
    ∃ s : State, s.cfgErr = false ∧ capacityOk s.cap s.mask ∧ Memory.wf s.cap s.slots = true ∧
      s.ports[0]? = some (idle [asmGetb 1#32]) ∧ (idle [asmGetb 1#32]).pc = .idle ∧
      (idle [asmGetb 1#32]).cmds = asmGetb 1#32 :: [] ∧ (sub32 s.putc s.getc).toNat ≤ s.cap.toNat ∧
      (1#32).toNat < (sub32 s.putc s.getc).toNat ∧
      1 = min (1#32).toNat (sub32 s.putc s.getc).toNat ∧ [7].length = 1 ∧
      s.sched = List.replicate (4 + 5 * 1) (.port 0) ++ [] ∧
      ∀ k, k < 1 → slotOf s (positionAfter s.getc k) =
        ⟨add32 (positionAfter s.getc k) s.cap, positionAfter s.getc k, some ([7].getD k 0)⟩ :=
  ⟨presenting [asmGetb 1#32] (List.replicate 9 (.port 0)), by decide, four_ok, by decide, by decide, by decide, by decide,
    by decide, by decide, by decide, by decide, by decide, by decide⟩

theorem witness_QueriesAloneComplete :
    ∀ e ∈ [(asmOcc, 3), (asmCap, 2), (asmStat, 3)],
      (presenting [e.1] (List.replicate e.2 (.port 0))).cfgErr = false ∧
      (presenting [e.1] (List.replicate e.2 (.port 0))).ports[0]? = some (idle [e.1]) ∧ (idle [e.1]).pc = .idle ∧
      (idle [e.1]).cmds = e.1 :: [] ∧
      (sub32 (presenting [e.1] (List.replicate e.2 (.port 0))).putc 0#32).toNat ≤
        (presenting [e.1] (List.replicate e.2 (.port 0))).cap.toNat ∧
      (presenting [e.1] (List.replicate e.2 (.port 0))).sched = List.replicate e.2 (.port 0) ++ [] := by decide

/-- The empty block at rest just before the cursors wrap. -/
def atRest (ports : List Port) (sched : List Turn) : State :=
  block 0xFFFFFFFF#32 0xFFFFFFFF#32 [(0, ⟨0#32, 0#32, none⟩)] ports sched

theorem witness_PutThenGetRoundTrip_two :
    ∃ s : State, s.cfgErr = false ∧ capacityOk s.cap s.mask ∧ 2 ≤ s.cap.toNat ∧ Memory.wf s.cap s.slots = true ∧ quiet s ∧
      s.ports[0]? = some (idle [asmPut 9]) ∧ (idle [asmPut 9]).pc = .idle ∧ 0 ≠ 1 ∧ s.ports[1]? = some (idle [asmGet]) ∧
      (idle [asmGet]).pc = .idle ∧ (idle [asmPut 9]).cmds = asmPut 9 :: [] ∧ (idle [asmGet]).cmds = asmGet :: [] ∧
      s.sched = List.replicate 8 (.port 0) ++ (List.replicate 9 (.port 1) ++ []) :=
  ⟨atRest [idle [asmPut 9], idle [asmGet]] (List.replicate 8 (.port 0) ++ List.replicate 9 (.port 1)),
    by decide, four_ok, by decide, by decide, ⟨rfl, by decide⟩, by decide, by decide, by decide, by decide, by decide,
    by decide, by decide, by decide⟩

theorem witness_PutThenGetRoundTrip_one :
    ∃ s : State, s.cfgErr = false ∧ capacityOk s.cap s.mask ∧ 2 ≤ s.cap.toNat ∧ Memory.wf s.cap s.slots = true ∧ quiet s ∧
      s.ports[0]? = some (idle [asmPut 9, asmGet]) ∧ (idle [asmPut 9, asmGet]).pc = .idle ∧
      (idle [asmPut 9, asmGet]).cmds = asmPut 9 :: asmGet :: [] ∧
      s.sched = List.replicate 8 (.port 0) ++ (List.replicate 9 (.port 0) ++ []) :=
  ⟨atRest [idle [asmPut 9, asmGet]] (List.replicate 8 (.port 0) ++ List.replicate 9 (.port 0)),
    by decide, four_ok, by decide, by decide, ⟨rfl, by decide⟩, by decide, by decide, by decide, by decide⟩

/-- Two ports at RESERVE with the same snapshot, the first of them running `op`, the second PUT or GET. -/
def racing (op op' : BitVec 8) : State :=
  block 2#32 0#32 twoWaiting [busy op .reserve 0#32 2#32 2#32 1#32 0#32, busy op' .reserve 0#32 2#32 2#32 1#32 0#32]
    [.port 0, .port 1]

theorem witness_FirstCasWins (op op' : BitVec 8)
    (h : (op, op') ∈ [(0x01#8, 0x02#8), (0x02#8, 0x01#8), (0x03#8, 0x04#8), (0x04#8, 0x03#8)]) :
    (racing op op').sched = .port 0 :: .port 1 :: [] ∧ 0 ≠ 1 ∧
      (racing op op').ports[0]? = some (busy op .reserve 0#32 2#32 2#32 1#32 0#32) ∧
      (racing op op').ports[1]? = some (busy op' .reserve 0#32 2#32 2#32 1#32 0#32) ∧
      (busy op .reserve 0#32 2#32 2#32 1#32 0#32).pc = .reserve ∧ (busy op' .reserve 0#32 2#32 2#32 1#32 0#32).pc = .reserve ∧
      (busy op .reserve 0#32 2#32 2#32 1#32 0#32).n ≠ 0#32 ∧
      ((producerOp op = true ∧ producerOp op' = true ∧ (racing op op').putc = 2#32) ∨
        (consumerOp op = true ∧ consumerOp op' = true ∧ (racing op op').getc = 0#32)) := by
  refine ⟨rfl, by decide, rfl, rfl, rfl, rfl, by show 1#32 ≠ 0#32; decide, ?_⟩
  simp only [List.mem_cons, Prod.mk.injEq, List.not_mem_nil, or_false] at h
  rcases h with ⟨rfl, rfl⟩ | ⟨rfl, rfl⟩ | ⟨rfl, rfl⟩ | ⟨rfl, rfl⟩ <;> decide

/-- A producer of lap 1 before the slot is drained (ST8), and a consumer before the item is there (GT7). -/
theorem witness_FailedPollOnlySamples :
    ∀ e ∈ [(0x01#8, 5#32, (⟨5#32, 1#32, some 7⟩ : Slot)), (0x03#8, 3#32, ⟨3#32, 3#32, none⟩)],
      (block 5#32 3#32 twoWaiting [busy e.1 .pollG 0#32 0#32 0#32 1#32 e.2.1] [.port 0, .port 0]).sched =
        .port 0 :: .port 0 :: [] ∧
      (block 5#32 3#32 twoWaiting [busy e.1 .pollG 0#32 0#32 0#32 1#32 e.2.1] [.port 0, .port 0]).ports[0]? =
        some (busy e.1 .pollG 0#32 0#32 0#32 1#32 e.2.1) ∧
      (busy e.1 .pollG 0#32 0#32 0#32 1#32 e.2.1).pc = .pollG ∧
      (block 5#32 3#32 twoWaiting [busy e.1 .pollG 0#32 0#32 0#32 1#32 e.2.1] [.port 0, .port 0]).slot?
        (slotIndex 3#32 e.2.1) = some e.2.2 ∧
      ((producerOp e.1 = true ∧ readyForWrite e.2.2 e.2.1 = false) ∨
        (consumerOp e.1 = true ∧ readyForRead 4#32 e.2.2 e.2.1 = false)) := by decide

/-- PUT at the threshold and GET after a lost CAS. -/
theorem witness_RejectionsChangeNothing :
    (inside 0x01#8 .snapP 3#32 0#32 1#32 3#32).ports[(inside 0x01#8 .snapP 3#32 0#32 1#32 3#32).active]? =
        some (busy 0x01#8 .snapP 0#32 2#32 2#32 1#32 3#32) ∧
      (port0 .put (inside 0x01#8 .snapP 3#32 0#32 1#32 3#32)).map (fun p => (p.pc, p.rsp.ok)) = some (.idle, false) ∧
      (inside 0x03#8 .reserve 2#32 1#32 1#32 1#32).ports[(inside 0x03#8 .reserve 2#32 1#32 1#32 1#32).active]? =
        some (busy 0x03#8 .reserve 0#32 2#32 2#32 1#32 1#32) ∧
      (port0 .get (inside 0x03#8 .reserve 2#32 1#32 1#32 1#32)).map (fun p => (p.pc, p.rsp.ok)) = some (.idle, false) := by
  decide

theorem witness_OneSlotBlockRejectsPut :
    ∃ s : State, s.cfgErr = false ∧ s.cap = 1#32 ∧ s.ports[0]? = some (idle [asmPut 9]) ∧ (idle [asmPut 9]).pc = .idle ∧
      (idle [asmPut 9]).cmds = asmPut 9 :: [] ∧ s.sched = List.replicate 3 (.port 0) ++ [] :=
  ⟨{ State.resetWith 0#32 0 with ports := [idle [asmPut 9]], sched := List.replicate 3 (.port 0) }, by decide, by decide,
    by decide, by decide, by decide, by decide⟩

/-- The frames, in the phases that write and at issue: port 0 is the active port, its slot array is canonical, and each
command of the family has a next state. -/
theorem witness_frames :
    (∀ pc ∈ [Phase.idle, .reserve, .xfer, .publish], ∀ i ∈ [Instr.put, .putb 2#32],
      Memory.wf (inside i.opcode pc 2#32 0#32 1#32 3#32).cap (inside i.opcode pc 2#32 0#32 1#32 3#32).slots = true ∧
      (inside i.opcode pc 2#32 0#32 1#32 3#32).active = 0 ∧
      (inside i.opcode pc 2#32 0#32 1#32 3#32).ports[0]? = some (busy i.opcode pc 0#32 2#32 2#32 1#32 3#32) ∧
      (port0 i (inside i.opcode pc 2#32 0#32 1#32 3#32)).isSome = true) ∧
    (∀ pc ∈ [Phase.idle, .reserve, .xfer, .clear, .publish], ∀ i ∈ [Instr.get, .getb 2#32],
      Memory.wf (inside i.opcode pc 2#32 0#32 1#32 1#32).cap (inside i.opcode pc 2#32 0#32 1#32 1#32).slots = true ∧
      (inside i.opcode pc 2#32 0#32 1#32 1#32).ports[0]? = some (busy i.opcode pc 0#32 2#32 2#32 1#32 1#32) ∧
      (port0 i (inside i.opcode pc 2#32 0#32 1#32 1#32)).isSome = true) ∧
    (∀ i ∈ [Instr.occ, .cap, .stat],
      (inside i.opcode .idle 2#32 0#32 1#32 1#32).ports[0]? = some (busy i.opcode .idle 0#32 2#32 2#32 1#32 1#32) ∧
      (port0 i (inside i.opcode .idle 2#32 0#32 1#32 1#32)).isSome = true) := by decide

/-- `StepIgnoresOtherPorts`: a turn of port 0 beside another port goes on, faults; a turn of no port is refused. -/
theorem witness_StepIgnoresOtherPorts :
    nextTurn (block 0#32 0#32 [] [idle [asmGet], idle []] [.port 0]) = .port 0 ∧ 1 ≠ 0 ∧
      (next? (step (block 0#32 0#32 [] [idle [asmGet], idle []] [.port 0]))).isSome = true ∧
      (fault? (step (block 1#32 1#32 [] [busy 0x03#8 .xfer 0#32 1#32 1#32 1#32 1#32, idle []] [.port 0]))).isSome = true ∧
      next? (step (block 0#32 0#32 [] [idle [], idle []] [.port 2])) = none ∧
      fault? (step (block 0#32 0#32 [] [idle [], idle []] [.port 2])) = none := by decide

/-- `OtherPortsUntouched`, `OnlyResetReconfigures`: a turn of port 0 that has a next state. -/
theorem witness_portTurn :
    nextTurn (block 2#32 0#32 twoWaiting [idle [asmGet], idle []] [.port 0]) = .port 0 ∧ 1 ≠ 0 ∧
      (block 2#32 0#32 twoWaiting [idle [asmGet], idle []] [.port 0]).ports[0]? = some (idle [asmGet]) ∧
      Memory.wf (block 2#32 0#32 twoWaiting [] []).cap (block 2#32 0#32 twoWaiting [] []).slots = true ∧
      (next? (step (block 2#32 0#32 twoWaiting [idle [asmGet], idle []] [.port 0]))).isSome = true := by decide

/-- `OnlyResetReconfigures` where something does change: both cursors, `VAL`, `PSEQ` and `GSEQ`. -/
theorem witness_OnlyResetReconfigures :
    ∀ e ∈ [(0x01#8, Phase.reserve, 3#32), (0x02#8, .reserve, 3#32), (0x03#8, .reserve, 3#32), (0x04#8, .reserve, 3#32),
        (0x01#8, .xfer, 3#32), (0x03#8, .clear, 1#32), (0x01#8, .publish, 1#32), (0x03#8, .publish, 1#32)],
      ∃ s : State, Memory.wf s.cap s.slots = true ∧ nextTurn s = .port 0 ∧
        s.ports[0]? = some (busy e.1 e.2.1 0#32 2#32 2#32 2#32 e.2.2) ∧
        ((next? (step s)).map fun t => (t.putc, t.getc, t.slots)) ≠ some (s.putc, s.getc, s.slots) ∧
        (next? (step s)).isSome = true := by
  intro e he
  refine ⟨block 2#32 0#32 twoWaiting [busy e.1 e.2.1 0#32 2#32 2#32 2#32 e.2.2] [.port 0], rfl, rfl, rfl, ?_⟩
  revert e; decide

/-- `MemoryFormKept`, `ConfigurationKept`, `PhasesFollowR34`, `ResiduesKept`, `EveryTurnHasAStep`: a store in progress. -/
def storing : State := block 3#32 0#32 twoWaiting [busy 0x01#8 .xfer 0#32 2#32 2#32 1#32 3#32, idle [asmGet]] [.port 0]

theorem witness_configuration : configOk storing ∧ (next? (step storing)).isSome = true :=
  ⟨.inl ⟨by decide, four_ok⟩, by decide⟩

theorem witness_refused_configuration :
    configOk { State.resetWith 0xFFFFFFFF#32 1 with sched := [.port 0] } ∧
      (next? (step { State.resetWith 0xFFFFFFFF#32 1 with sched := [.port 0] })).isSome = true := by
  refine ⟨.inr ⟨by decide, by decide, by decide, by decide, by decide, by decide, ?_⟩, by decide⟩
  unfold final; decide

theorem witness_invariants :
    Memory.wf storing.cap storing.slots = true ∧ phasesOk storing ∧ residuesOk storing ∧ nextTurn storing = .port 0 ∧
      storing.ports[0]? = some (busy 0x01#8 .xfer 0#32 2#32 2#32 1#32 3#32) := by
  refine ⟨by decide, ?_, ?_, by decide, by decide⟩
  · unfold phasesOk; decide
  · unfold residuesOk; decide

theorem witness_EveryTurnHasAStep_fault :
    configOk (block 1#32 1#32 [] [busy 0x03#8 .xfer 0#32 1#32 1#32 1#32 1#32] [.port 0]) ∧
      phasesOk (block 1#32 1#32 [] [busy 0x03#8 .xfer 0#32 1#32 1#32 1#32 1#32] [.port 0]) := by
  refine ⟨.inl ⟨by decide, four_ok⟩, ?_⟩
  unfold phasesOk; decide

/-- `EstimatesKept`: an admitted PUT at the largest estimate it can have, beside a response that may be read and is at its
bound. -/
theorem witness_EstimatesKept :
    estimatesOk { storing with ports := storing.ports ++ [Port.respond (idle []) (Rsp.rejected 4#32)] } ∧
      (next? (step { storing with ports := storing.ports ++ [Port.respond (idle []) (Rsp.rejected 4#32)] })).isSome = true := by
  refine ⟨?_, by decide⟩
  unfold estimatesOk admissionOk; decide

/-- Four ports at RESERVE with the same snapshot, each at its admission boundary (PUT 2 of 4, PUTB to 4, GET and GETB of
all). -/
def reserving (i : Nat) : State :=
  block 2#32 0#32 twoWaiting
    [busy 0x01#8 .reserve 0#32 2#32 2#32 1#32 0#32, busy 0x02#8 .reserve 0#32 2#32 2#32 2#32 0#32,
      busy 0x03#8 .reserve 0#32 2#32 2#32 1#32 0#32, busy 0x04#8 .reserve 0#32 2#32 2#32 2#32 0#32] [.port i]

theorem reserving_zero_cursorsOk : CursorsOk (reserving 0) := by
  refine ⟨by decide, ?_, ?_⟩
  · unfold reserving block; decide
  · unfold reserving block admissionOk; decide

theorem reserving_cursorsOk (i : Nat) : CursorsOk (reserving i) :=
  ⟨reserving_zero_cursorsOk.occupancy, reserving_zero_cursorsOk.snapshots, reserving_zero_cursorsOk.admitted⟩

theorem witness_NoPutAcceptedWhenFull :
    (∀ i, CursorsOk (reserving i)) ∧
      ∀ i < 4, nextTurn (reserving i) = .port i ∧ ((reserving i).ports[i]?).map (·.pc) = some .reserve ∧
        ((next? (step (reserving i))).bind fun t => t.ports[i]?).map (·.pc) = some .pollG :=
  ⟨reserving_cursorsOk, by decide⟩

theorem witness_CursorsKept :
    CursorsOk (reserving 1) ∧ ∃ t, step (reserving 1) = .next t ∧ notOvertaken (reserving 1) t := by
  refine ⟨reserving_cursorsOk 1, _, rfl, ?_⟩
  unfold notOvertaken; decide

/-- The reset branch of `CursorsKept`. -/
theorem witness_CursorsKept_reset :
    nextTurn { reserving 0 with sched := [.reset 8#32] } = .reset 8#32 ∧
      (next? (step { reserving 0 with sched := [.reset 8#32] })).isSome = true := by decide

/-! States inside the protocol, at the wrap of the cursors: capacity 2, the get position counted 2^32 - 1 with a GET, the put
position counted 2^32, whose register is 0, with a producer at XFER. -/

def getter (pc : Phase) (out : List Item) : Port :=
  { busy 0x03#8 pc 0xFFFFFFFE#32 0#32 1#32 1#32 0xFFFFFFFF#32 with outItems := out }

def putter (op : BitVec 8) : Port := busy op .xfer 0xFFFFFFFE#32 0xFFFFFFFF#32 1#32 1#32 0#32

def crossing (pc : Phase) (v : Option Item) (out : List Item) (op : BitVec 8) (ts : List Turn) : State :=
  { State.resetWith 2#32 0 with
    putc := 0#32, getc := 0xFFFFFFFF#32, slots := [(0, ⟨0#32, 0#32, none⟩), (1, ⟨1#32, 0xFFFFFFFF#32, v⟩)]
    ports := [getter pc out, putter op], sched := ts }

/-- The counts that those registers hold. -/
def crossed : Unwrapped where
  putc := 2 ^ 32
  getc := 2 ^ 32 - 1
  gs := fun _ => 0
  ps := fun _ => 0
  pos := fun i => if i = 0 then 2 ^ 32 - 1 else 2 ^ 32
  gseq := fun k => if k = 0 then 2 ^ 32 else 2 ^ 32 - 1
  pseq := fun k => if k = 0 then 2 ^ 32 else 2 ^ 32 + 1

theorem crossed_counts : crossed.putc = 2 ^ 32 ∧ crossed.getc = 2 ^ 32 - 1 ∧ crossed.pos 0 = 2 ^ 32 - 1 ∧
    crossed.pos 1 = 2 ^ 32 ∧ crossed.gseq 0 = 2 ^ 32 ∧ crossed.pseq 0 = 2 ^ 32 ∧ crossed.gseq 1 = 2 ^ 32 - 1 ∧
    crossed.pseq 1 = 2 ^ 32 + 1 := by decide

/-- The consumer's three phases in its slot, with the slot's `VAL` and `OUT`, and the two producer commands. -/
def agrees (pc : Phase) (v : Option Item) (out : List Item) (op : BitVec 8) : Prop :=
  ((pc = .xfer ∧ v = some 7 ∧ out = []) ∨ (pc = .clear ∧ v = some 7 ∧ out = [7]) ∨
    (pc = .publish ∧ v = none ∧ out = [7])) ∧ (op = 0x01#8 ∨ op = 0x02#8)

section crossing

variable {pc : Phase} {v : Option Item} {out : List Item} {op : BitVec 8} {ts : List Turn}

theorem crossing_port {i : Nat} {p : Port} (hp : (crossing pc v out op ts).ports[i]? = some p) :
    (i = 0 ∧ p = getter pc out) ∨ (i = 1 ∧ p = putter op) := by
  rcases i with _ | _ | i
  · exact .inl ⟨rfl, by simpa [crossing] using hp.symm⟩
  · exact .inr ⟨rfl, by simpa [crossing] using hp.symm⟩
  · simp [crossing] at hp

theorem crossing_holdsPut (h : agrees pc v out op) {i : Nat} {p : Port}
    (hp : (crossing pc v out op ts).ports[i]? = some p) (q : Nat) : crossed.holdsPut i p q ↔ i = 1 ∧ q = 2 ^ 32 := by
  rcases crossing_port hp with ⟨rfl, rfl⟩ | ⟨rfl, rfl⟩
  · simp [Unwrapped.holdsPut, getter, busy, producerOp]
  · have e : Port.remaining (putter op) = 1 := by rcases h.2 with rfl | rfl <;> rfl
    have o : producerOp (putter op).op = true := by rcases h.2 with rfl | rfl <;> rfl
    have hh : Port.holding (putter op) = true := rfl
    simp only [Unwrapped.holdsPut, o, hh, e, crossed_counts, true_and]; omega

theorem crossing_holdsGet (h : agrees pc v out op) {i : Nat} {p : Port}
    (hp : (crossing pc v out op ts).ports[i]? = some p) (q : Nat) :
    crossed.holdsGet i p q ↔ i = 0 ∧ q = 2 ^ 32 - 1 := by
  rcases crossing_port hp with ⟨rfl, rfl⟩ | ⟨rfl, rfl⟩
  · have e : Port.remaining (getter pc out) = 1 := rfl
    have o : consumerOp (getter pc out).op = true := rfl
    have hh : Port.holding (getter pc out) = true := by
      rcases h.1 with ⟨rfl, _⟩ | ⟨rfl, _⟩ | ⟨rfl, _⟩ <;> rfl
    simp only [Unwrapped.holdsGet, o, hh, e, crossed_counts, true_and]; omega
  · have o : consumerOp (putter op).op = false := by rcases h.2 with rfl | rfl <;> rfl
    simp [Unwrapped.holdsGet, o]

theorem crossing_heldPut (h : agrees pc v out op) (q : Nat) :
    crossed.heldPut (crossing pc v out op ts) q ↔ q = 2 ^ 32 :=
  ⟨fun ⟨_, _, hp, hq⟩ => ((crossing_holdsPut h hp q).mp hq).2,
    fun e => ⟨1, putter op, rfl, (crossing_holdsPut (ts := ts) h rfl q).mpr ⟨rfl, e⟩⟩⟩

theorem crossing_heldGet (h : agrees pc v out op) (q : Nat) :
    crossed.heldGet (crossing pc v out op ts) q ↔ q = 2 ^ 32 - 1 :=
  ⟨fun ⟨_, _, hp, hq⟩ => ((crossing_holdsGet h hp q).mp hq).2,
    fun e => ⟨0, getter pc out, rfl, (crossing_holdsGet (ts := ts) h rfl q).mpr ⟨rfl, e⟩⟩⟩

theorem crossing_slotAt (h : agrees pc v out op) {k : Nat} (hk : k < 2) :
    SlotAt crossed (crossing pc v out op ts) k := by
  have hc : (crossing pc v out op ts).cap.toNat = 2 := rfl
  have put := crossing_heldPut (ts := ts) h
  have get := crossing_heldGet (ts := ts) h
  have : k = 0 ∨ k = 1 := by omega
  rcases this with rfl | rfl
  · have r : readSlot (crossing pc v out op ts).cap (crossing pc v out op ts).slots 0 = ⟨0#32, 0#32, none⟩ := rfl
    constructor
    case filled => intro _ a; exact absurd rfl a
    case drained => intro a; exact absurd rfl a
    all_goals simp only [r, hc, put, get, crossed_counts]
    all_goals first
      | decide
      | (intros; omega)
  · have r : readSlot (crossing pc v out op ts).cap (crossing pc v out op ts).slots 1 = ⟨1#32, 0xFFFFFFFF#32, v⟩ := rfl
    constructor
    case filled => intro a; exact absurd a (by decide)
    case drained =>
      intro _ a
      rw [r] at a
      refine ⟨0, getter pc out, rfl, rfl, ?_, by decide⟩
      rcases h.1 with ⟨_, rfl, _⟩ | ⟨_, rfl, _⟩ | ⟨rfl, _⟩
      · cases a
      · cases a
      · rfl
    all_goals simp only [r, hc, put, get, crossed_counts]
    all_goals first
      | decide
      | (intros; omega)

/-- The witness of every statement that assumes `ProtocolOk`. -/
theorem crossing_at (h : agrees pc v out op) : ProtocolAt crossed (crossing pc v out op ts) where
  legal := rfl
  capacity := ⟨⟨1, by decide, rfl⟩, rfl⟩
  memory := by rcases h.1 with ⟨_, rfl, _⟩ | ⟨_, rfl, _⟩ | ⟨_, rfl, _⟩ <;> rfl
  cursorsLow := ⟨rfl, rfl⟩
  occupancy := ⟨by decide, by show _ ≤ _ + 2; decide⟩
  ports i p hp := by
    obtain ⟨h1, h2⟩ := h
    have k : PortAt crossed (crossing pc v out op []) i p := by
      rcases crossing_port hp with ⟨rfl, rfl⟩ | ⟨rfl, rfl⟩ <;>
        rcases h1 with ⟨rfl, rfl, rfl⟩ | ⟨rfl, rfl, rfl⟩ | ⟨rfl, rfl, rfl⟩ <;> rcases h2 with rfl | rfl <;>
        exact ⟨by decide, by decide, by decide, fun a => absurd a (by decide), by decide, by decide, by decide, by decide,
          by decide, fun _ => by constructor <;> decide⟩
    exact ⟨k.phase, k.snapshotG, k.snapshotP, k.admitted, k.position, k.batch, k.putReserved, k.getReserved, k.items,
      k.handshake⟩
  putApart i j p r hp hr hij q hq hq' := by
    have a := (crossing_holdsPut h hp q).mp hq
    have b := (crossing_holdsPut h hr q).mp hq'
    omega
  getApart i j p r hp hr hij q hq hq' := by
    have a := (crossing_holdsGet h hp q).mp hq
    have b := (crossing_holdsGet h hr q).mp hq'
    omega
  slots k hk := crossing_slotAt h hk

end crossing

/-- `ProtocolNeverFaults`, `ProtocolGivesR44`, `EveryTurnHasAStep`, `ItemsAreConserved`, `SlotsFollowTheCycle`: at each of
the consumer's phases, with either port's turn next, and both producer commands. -/
theorem witness_ProtocolOk :
    ∀ e ∈ [(Phase.xfer, some 7, []), (.clear, some 7, [7]), (.publish, none, [7])], ∀ op ∈ [0x01#8, 0x02#8],
      ∀ i ∈ [0, 1], ProtocolOk (crossing e.1 e.2.1 e.2.2 op [.port i]) := by
  intro e he op hop i _
  refine ⟨crossed, crossing_at ⟨?_, by simpa using hop⟩⟩
  revert e; decide

theorem witness_ProtocolOk_turns :
    ∀ e ∈ [(Phase.xfer, some 7, []), (.clear, some 7, [7]), (.publish, none, [7])], ∀ op ∈ [0x01#8, 0x02#8],
      ∀ i ∈ [0, 1], nextTurn (crossing e.1 e.2.1 e.2.2 op [.port i]) = .port i ∧
        (crossing e.1 e.2.1 e.2.2 op [.port i]).ports[0]? = some (getter e.1 e.2.2) ∧
        (crossing e.1 e.2.1 e.2.2 op [.port i]).ports[1]? = some (putter op) ∧
        (getter e.1 e.2.2).pc = e.1 ∧ consumerOp (getter e.1 e.2.2).op = true ∧
        (putter op).pc = .xfer ∧ (putter op).op = op ∧
        ((next? (step (crossing e.1 e.2.1 e.2.2 op [.port i]))).bind fun t => t.ports[i]?).isSome = true ∧
        0 < (crossing e.1 e.2.1 e.2.2 op [.port i]).cap.toNat := by decide

/-- `ItemsAreConserved`: the consumer's PUBLISH is the one that answers. -/
theorem witness_ItemsAreConserved_answer :
    ((next? (step (crossing .publish none [7] 0x01#8 [.port 0]))).bind fun t => t.ports[0]?).map (·.pc) = some .idle := by
  decide

/-- `HandshakesAreExclusive`: both clauses, between two ports in different slots and for one port alone. -/
theorem witness_HandshakesAreExclusive :
    ProtocolOk (crossing .clear (some 7) [7] 0x01#8 [.port 1]) ∧ (0 : Nat) ≠ 1 ∧
      (getter .clear [7]).pc = .clear ∧ (putter 0x01#8).pc = .xfer ∧
      slotIndex (crossing .clear (some 7) [7] 0x01#8 [.port 1]).mask (getter .clear [7]).pos =
        slotIndex (crossing .clear (some 7) [7] 0x01#8 [.port 1]).mask (getter .clear [7]).pos ∧
      nextTurn (crossing .clear (some 7) [7] 0x01#8 [.port 1]) = .port 1 ∧
      (next? (step (crossing .clear (some 7) [7] 0x01#8 [.port 1]))).isSome = true :=
  ⟨witness_ProtocolOk (.clear, some 7, [7]) (by decide) _ (by decide) 1 (by decide), by decide, by decide, by decide,
    by decide, by decide, by decide⟩

/-- `WaitingPositionsAreAccountedFor`: position 0, one past the wrap, is the only one waiting. -/
theorem witness_WaitingPositionsAreAccountedFor :
    ProtocolOk (crossing .clear (some 7) [7] 0x01#8 [.port 1]) ∧
      1 ≤ (sub32 0#32 (crossing .clear (some 7) [7] 0x01#8 [.port 1]).getc).toNat ∧
      (sub32 0#32 (crossing .clear (some 7) [7] 0x01#8 [.port 1]).getc).toNat ≤
        (sub32 (crossing .clear (some 7) [7] 0x01#8 [.port 1]).putc
          (crossing .clear (some 7) [7] 0x01#8 [.port 1]).getc).toNat :=
  ⟨witness_ProtocolOk (.clear, some 7, [7]) (by decide) _ (by decide) 1 (by decide), by decide, by decide⟩

/-- `ProtocolKept`: past 2^32 reservations, with no port overtaken. -/
theorem witness_ProtocolKept_notOvertaken :
    ProtocolAfter (2 ^ 32) (crossing .xfer (some 7) [] 0x02#8 [.port 0]) ∧
      nextTurn (crossing .xfer (some 7) [] 0x02#8 [.port 0]) = .port 0 ∧
      ∃ t, step (crossing .xfer (some 7) [] 0x02#8 [.port 0]) = .next t ∧
        liveNotOvertaken (crossing .xfer (some 7) [] 0x02#8 [.port 0]) t := by
  refine ⟨⟨crossed, rfl, crossing_at ⟨.inl ⟨rfl, rfl, rfl⟩, .inr rfl⟩⟩, rfl, _, rfl, ?_, ?_⟩
  · unfold notOvertaken; decide
  · decide

/-- `ProtocolKept` with a reset event, at the largest legal request. -/
theorem witness_ProtocolKept_reset :
    ProtocolAfter (2 ^ 32) (crossing .xfer (some 7) [] 0x01#8 [.reset 0x80000000#32]) ∧
      nextTurn (crossing .xfer (some 7) [] 0x01#8 [.reset 0x80000000#32]) = .reset 0x80000000#32 ∧
      (0x80000000#32).toNat ≤ 0x80000000 ∧
      (next? (step (crossing .xfer (some 7) [] 0x01#8 [.reset 0x80000000#32]))).isSome = true :=
  ⟨⟨crossed, rfl, crossing_at ⟨.inl ⟨rfl, rfl, rfl⟩, .inl rfl⟩⟩, by decide, by decide, by decide⟩

/-! One reservation short of 2^32: a PUT at RESERVE on an empty block of capacity 2. -/

def lastOfLap : State :=
  { State.resetWith 2#32 0 with
    putc := 0xFFFFFFFE#32, getc := 0xFFFFFFFE#32
    slots := [(0, ⟨0#32, 0#32, none⟩), (1, ⟨0xFFFFFFFF#32, 0xFFFFFFFF#32, none⟩)]
    ports := [busy 0x01#8 .reserve 0xFFFFFFFE#32 0xFFFFFFFE#32 0#32 1#32 0#32], sched := [.port 0] }

def lastCounts : Unwrapped where
  putc := 2 ^ 32 - 2
  getc := 2 ^ 32 - 2
  gs := fun _ => 2 ^ 32 - 2
  ps := fun _ => 2 ^ 32 - 2
  pos := fun _ => 0
  gseq := fun k => if k = 0 then 2 ^ 32 else 2 ^ 32 - 1
  pseq := fun k => if k = 0 then 2 ^ 32 else 2 ^ 32 - 1

theorem lastCounts_counts : lastCounts.putc = 2 ^ 32 - 2 ∧ lastCounts.getc = 2 ^ 32 - 2 ∧ lastCounts.gseq 0 = 2 ^ 32 ∧
    lastCounts.pseq 0 = 2 ^ 32 ∧ lastCounts.gseq 1 = 2 ^ 32 - 1 ∧ lastCounts.pseq 1 = 2 ^ 32 - 1 := by decide

theorem lastOfLap_port {i : Nat} {p : Port} (hp : lastOfLap.ports[i]? = some p) :
    i = 0 ∧ p = busy 0x01#8 .reserve 0xFFFFFFFE#32 0xFFFFFFFE#32 0#32 1#32 0#32 := by
  rcases i with _ | i
  · exact ⟨rfl, by simpa [lastOfLap] using hp.symm⟩
  · simp [lastOfLap] at hp

theorem lastOfLap_holds {i : Nat} {p : Port} (hp : lastOfLap.ports[i]? = some p) (q : Nat) :
    ¬ lastCounts.holdsPut i p q ∧ ¬ lastCounts.holdsGet i p q := by
  obtain ⟨rfl, rfl⟩ := lastOfLap_port hp
  exact ⟨fun h => absurd h.2.1 (by decide), fun h => absurd h.2.1 (by decide)⟩

theorem lastOfLap_at : ProtocolAt lastCounts lastOfLap where
  legal := rfl
  capacity := ⟨⟨1, by decide, rfl⟩, rfl⟩
  memory := by decide
  cursorsLow := by decide
  occupancy := by decide
  ports i p hp := by
    obtain ⟨rfl, rfl⟩ := lastOfLap_port hp
    exact ⟨by decide, by decide, by decide, fun _ => ⟨by decide, by unfold admissionOk; decide⟩, by decide, by decide,
      by decide, by decide, by decide, fun h => absurd h (by decide)⟩
  putApart i j p r hp _ _ q hq := absurd hq (lastOfLap_holds hp q).1
  getApart i j p r hp _ _ q hq := absurd hq (lastOfLap_holds hp q).2
  slots k hk := by
    have put : ∀ q, ¬ lastCounts.heldPut lastOfLap q := fun q ⟨_, _, hp, hq⟩ => (lastOfLap_holds hp q).1 hq
    have get : ∀ q, ¬ lastCounts.heldGet lastOfLap q := fun q ⟨_, _, hp, hq⟩ => (lastOfLap_holds hp q).2 hq
    have hc : lastOfLap.cap.toNat = 2 := by decide
    have : k = 0 ∨ k = 1 := by omega
    rcases this with rfl | rfl
    · constructor
      case filled => intro _ a; exact absurd a (by decide)
      case drained => intro a; exact absurd rfl a
      all_goals simp only [put, get, hc, lastCounts_counts]
      all_goals first | decide | (intros; contradiction) | (intros; omega)
    · constructor
      case filled => intro _ a; exact absurd a (by decide)
      case drained => intro a; exact absurd rfl a
      all_goals simp only [put, get, hc, lastCounts_counts]
      all_goals first | decide | (intros; contradiction) | (intros; omega)

/-- `ProtocolKept` on the runs shorter than 2^32 reservations, at their last one. -/
theorem witness_ProtocolKept_short :
    ProtocolAfter (2 ^ 32 - 2) lastOfLap ∧ nextTurn lastOfLap = .port 0 ∧
      ∃ t, step lastOfLap = .next t ∧ 2 ^ 32 - 2 + (sub32 t.putc lastOfLap.putc).toNat = 2 ^ 32 - 1 :=
  ⟨⟨lastCounts, rfl, lastOfLap_at⟩, by decide, _, rfl, by decide⟩

theorem witness_ItemWidthKept :
    Memory.wf storing.cap storing.slots = true ∧ itemsFit 8 storing ∧ (next? (step storing)).isSome = true := by
  refine ⟨by decide, ⟨?_, ?_⟩, by decide⟩
  · intro j d h
    simp only [storing, block, twoWaiting, readSlot] at h
    split at h
    · cases h; decide
    · split at h
      · cases h; decide
      · cases h
  · unfold storing block; decide

theorem witness_PayloadBitsOfR9 : Item.fits 8 255 = true := by decide

theorem witness_PositionsAreWrapSafe : capacityOk 1#32 0#32 ∧ capacityOk 0x80000000#32 0x7FFFFFFF#32 :=
  ⟨⟨⟨0, by decide, by decide⟩, by decide⟩, ⟨31, by decide, by decide⟩, by decide⟩

theorem witness_ResetMeetsProtocol : (0x80000000#32).toNat ≤ 0x80000000 := by decide

end Sys2Proof.Tests
end

section
/-! PROOF. One turn of one port, from the schedule or the free value to the port's own step: which operation it runs (rules
R14, R34, R91). -/

namespace Sys2Proof.Machine

/-! ### The turn -/

@[simp] theorem turnState_activePort? (s : State) (i : Nat) : (turnState s i).activePort? = s.ports[i]? := by
  simp [State.activePort?]

/-- A port's turn is the turn of that port in the state that has taken the turn (rule R67). -/
theorem step_of_port {s : State} {i : Nat} (h : nextTurn s = .port i) : step s = stepPort (turnState s i) := by
  unfold step; rw [h]; rfl

/-- The head of the schedule is the next turn. -/
theorem nextTurn_of_sched {s : State} {u : Turn} {ts : List Turn} (h : s.sched = u :: ts) : nextTurn s = u := by
  simp [nextTurn, h]

/-- With the schedule used up the free value names the port. -/
theorem nextTurn_of_sched_nil {s : State} (h : s.sched = []) :
    nextTurn s = .port (Config.freeTurn s.freeTurns % s.ports.length) := by
  simp [nextTurn, h]

theorem turnState_of_sched {s : State} {u : Turn} {ts : List Turn} (h : s.sched = u :: ts) (i : Nat) :
    turnState s i = { s with sched := ts, active := i } := by
  simp [turnState, afterTurn, h]

theorem turnState_of_sched_nil {s : State} (h : s.sched = []) (i : Nat) :
    turnState s i = { s with freeTurns := s.freeTurns + 1, active := i } := by
  simp [turnState, afterTurn, h]

/-! ### What the port that has the turn does -/

section stepPort

variable {s : State} {p : Port}

/-- An idle port with nothing presented waits (rule R185). -/
theorem stepPort_waiting (hp : s.activePort? = some p) (hpc : p.pc = .idle) (hc : p.cmds = []) :
    stepPort s = .next s := by
  simp [stepPort, fetch, hp, hpc, hc]

/-- An idle port steps the legal word presented (rule R91). -/
theorem stepPort_presented {c : Command} {cs : List Command} {j : Instr} (hp : s.activePort? = some p)
    (hpc : p.pc = .idle) (hc : p.cmds = c :: cs) (hd : decode c.word = some j) : stepPort s = exec j s := by
  simp [stepPort, fetch, hp, hpc, hc, hd]

/-- An idle port answers an illegal word (rules R86, R163). -/
theorem stepPort_illegal {c : Command} {cs : List Command} (hp : s.activePort? = some p)
    (hpc : p.pc = .idle) (hc : p.cmds = c :: cs) (hd : decode c.word = none) :
    stepPort s = .next (raiseIllegal s p) := by
  simp [stepPort, fetch, refuseWord, hp, hpc, hc, hd]

/-- A busy port steps the operation it has latched (rules R14, R34, R65). -/
theorem stepPort_latched {j : Instr} (hp : s.activePort? = some p) (hpc : p.pc ≠ .idle)
    (hj : Instr.ofLatched p.op p.arg = some j) : stepPort s = exec j s := by
  simp [stepPort, fetch, hp, hpc, hj]

/-- A busy port that has latched no operation has no step (rule R14). -/
theorem stepPort_stuck (hp : s.activePort? = some p) (hpc : p.pc ≠ .idle)
    (hj : Instr.ofLatched p.op p.arg = none) : stepPort s = noStep p := by
  simp [stepPort, fetch, hp, hpc, hj]

end stepPort

end Sys2Proof.Machine
end

section
/-! PROOF. What the moves of a port do to the list of ports, to phases and to items. -/

namespace Sys2Proof.Safety

open Sys2Proof.Machine

/-- A move replaces one record, the one of the port that has the turn (rules R11, R172). -/
theorem portMove_ports {s t : State} {p : Port} (h : PortMove s p t) : ∃ p', t.ports = s.ports.set s.active p' := by
  cases h <;> exact ⟨_, rfl⟩

/-- What holds of every port and of the record that replaces one holds of every port afterwards. -/
theorem forall_ports_set {s t : State} {a : Nat} {p' : Port} {P : Port → Prop} (ht : t.ports = s.ports.set a p')
    (hs : ∀ q ∈ s.ports, P q) (hp' : P p') : ∀ q ∈ t.ports, P q := by
  intro q hq
  rcases List.mem_or_eq_of_mem_set (ht ▸ hq) with hq | rfl
  · exact hs q hq
  · exact hp'

/-! ### The phase of the port that moves (rule R34) -/

/-- Issue leaves a port at the first phase of its operation (rule R91). -/
theorem issued_phase (i : Instr) :
    labelExists i.opcode (if i.opcode = 0x06#8 then .capq else .snapG) = true ∧
      phaseSucc i.opcode .idle (if i.opcode = 0x06#8 then .capq else .snapG) = true := by
  cases i <;> exact ⟨rfl, rfl⟩

/-- PUT and PUTB, whatever else the two cases say, are the producers (rule R16). -/
theorem producerOp_of_cases {op : BitVec 8} {a b : Prop} (h : (op = 0x01#8 ∧ a) ∨ (op = 0x02#8 ∧ b)) :
    producerOp op = true := by
  rcases h with ⟨rfl, -⟩ | ⟨rfl, -⟩ <;> rfl

/-- GET and GETB, whatever else the two cases say, are the consumers (rule R16). -/
theorem consumerOp_of_cases {op : BitVec 8} {a b : Prop} (h : (op = 0x03#8 ∧ a) ∨ (op = 0x04#8 ∧ b)) :
    consumerOp op = true := by
  rcases h with ⟨rfl, -⟩ | ⟨rfl, -⟩ <;> rfl

/-- Every move takes its port to a phase of the operation it then has, along the successor table of rule R34. -/
theorem portMove_phase {s t : State} {p : Port} (h : PortMove s p t) :
    ∃ p', t.ports = s.ports.set s.active p' ∧ labelExists p'.op p'.pc = true ∧ phaseSucc p'.op p.pc p'.pc = true := by
  cases h
  case issued i hpc _ => exact ⟨_, rfl, by rw [hpc]; exact issued_phase i⟩
  case polledForWrite hpc hop _ =>
    refine ⟨_, rfl, ?_⟩
    dsimp only
    rw [hpc]; split <;> simp [labelExists, phaseSucc, hop]
  case polledForRead hpc hop _ =>
    refine ⟨_, rfl, ?_⟩
    dsimp only
    rw [hpc]; split <;> simp [labelExists, phaseSucc, hop]
  case stored hpc hop _ =>
    exact ⟨_, rfl, by simp [labelExists, phaseSucc, hpc, producerOp_of_cases hop]⟩
  case taken hpc hop _ _ =>
    exact ⟨_, rfl, by simp [labelExists, phaseSucc, hpc, consumerOp_of_cases hop]⟩
  case reservedPut hpc hop _ =>
    exact ⟨_, rfl, by simp [labelExists, phaseSucc, hpc, producerOp_of_cases hop]⟩
  case reservedGet hpc hop _ =>
    exact ⟨_, rfl, by simp [labelExists, phaseSucc, hpc, consumerOp_of_cases hop]⟩
  case publishedNext hpc hop _ _ => exact ⟨_, rfl, by simp [labelExists, phaseSucc, hpc, hop, producerOp]⟩
  case releasedNext hpc hop _ _ => exact ⟨_, rfl, by simp [labelExists, phaseSucc, hpc, hop, consumerOp]⟩
  all_goals exact ⟨_, rfl, by simp [labelExists, phaseSucc, *]⟩

end Sys2Proof.Safety
end

section
/-! PROOF. A step of one port does not look at the others (rules R11, R33): every operation commutes with replacing the
record of a port that does not take the step. -/

namespace Sys2Proof.Machine

/-- Another record in place of port `j`'s. -/
def State.replacePort (j : Nat) (r : Port) (s : State) : State := { s with ports := s.ports.set j r }

/-- The outcome with the next state changed by `f`; a fault or a refusal stays. -/
def mapNext (f : State → State) : Result → Result
  | .next s => .next (f s)
  | .fault e => .fault e
  | .refused e => .refused e

@[simp] theorem mapNext_next (f : State → State) (s : State) : mapNext f (.next s) = .next (f s) := rfl
@[simp] theorem mapNext_fault (f : State → State) (e : Fault) : mapNext f (.fault e) = .fault e := rfl
@[simp] theorem mapNext_refused (f : State → State) (e : Refusal) : mapNext f (.refused e) = .refused e := rfl
@[simp] theorem mapNext_noStep (f : State → State) (p : Port) : mapNext f (noStep p) = noStep p := rfl

section replacePort

variable (j : Nat) (r : Port) (s : State)

@[simp] theorem State.replacePort_cap : (s.replacePort j r).cap = s.cap := rfl
@[simp] theorem State.replacePort_mask : (s.replacePort j r).mask = s.mask := rfl
@[simp] theorem State.replacePort_cfgErr : (s.replacePort j r).cfgErr = s.cfgErr := rfl
@[simp] theorem State.replacePort_putc : (s.replacePort j r).putc = s.putc := rfl
@[simp] theorem State.replacePort_getc : (s.replacePort j r).getc = s.getc := rfl
@[simp] theorem State.replacePort_slots : (s.replacePort j r).slots = s.slots := rfl
@[simp] theorem State.replacePort_ports : (s.replacePort j r).ports = s.ports.set j r := rfl
@[simp] theorem State.replacePort_sched : (s.replacePort j r).sched = s.sched := rfl
@[simp] theorem State.replacePort_freeTurns : (s.replacePort j r).freeTurns = s.freeTurns := rfl
@[simp] theorem State.replacePort_active : (s.replacePort j r).active = s.active := rfl

@[simp] theorem State.slot?_replacePort : (s.replacePort j r).slot? = s.slot? := rfl

@[simp] theorem Port.snapshot_replacePort (p : Port) : p.snapshot (s.replacePort j r) = p.snapshot s := rfl

/-- The next turn is chosen from the schedule, the free value and the number of ports only (rule R67). -/
theorem nextTurn_replacePort : nextTurn (s.replacePort j r) = nextTurn s := by
  simp [nextTurn]

theorem turnState_replacePort (i : Nat) : turnState (s.replacePort j r) i = (turnState s i).replacePort j r := by
  unfold turnState afterTurn
  cases hs : s.sched <;> simp [State.replacePort, hs]

end replacePort

section commute

variable {j : Nat} {r : Port} {s : State}

theorem activePort?_replacePort (h : j ≠ s.active) : (s.replacePort j r).activePort? = s.activePort? := by
  simp [State.activePort?, h]

theorem setPort_replacePort (h : j ≠ s.active) (p : Port) :
    (s.replacePort j r).setPort p = (s.setPort p).replacePort j r := by
  simp [State.setPort, State.replacePort, List.set_comm _ _ h]

theorem withSlot_replacePort {p : Port} {f g : Nat → Slot → Result}
    (h : ∀ i sl, f i sl = mapNext (State.replacePort j r) (g i sl)) :
    withSlot (s.replacePort j r) p f = mapNext (State.replacePort j r) (withSlot s p g) := by
  unfold withSlot
  simp only [State.slot?_replacePort, State.replacePort_mask]
  cases s.slot? (slotIndex s.mask p.pos) with
  | none => rfl
  | some sl => exact h _ sl

end commute

/-- The operation on a state and the record of its active port answers the same with any other record in place of port
`j`'s, that record apart. -/
def IgnoresPort (j : Nat) (r : Port) (s : State) (f : State → Port → Result) : Prop :=
  ∀ p, f (s.replacePort j r) p = mapNext (State.replacePort j r) (f s p)

section ignores

variable {j : Nat} {r : Port} {s : State}

theorem issue_replacePort (h : j ≠ s.active) (i : Instr) (p : Port) :
    issue i (s.replacePort j r) p = (issue i s p).replacePort j r := by
  unfold issue raiseIllegal
  simp only [State.replacePort_cfgErr, setPort_replacePort h]
  split <;> rfl

theorem ignoresPort_noStep : IgnoresPort j r s fun _ p => noStep p := fun _ => rfl

/-- A step that reads shared state and writes the record of its own port. -/
theorem ignoresPort_setPort (h : j ≠ s.active) {g : State → Port → Port}
    (hg : ∀ p, g (s.replacePort j r) p = g s p) : IgnoresPort j r s fun s p => .next (s.setPort (g s p)) := fun p => by
  simp [hg, setPort_replacePort h]

theorem ignoresPort_snapG (h : j ≠ s.active) : IgnoresPort j r s snapG := ignoresPort_setPort h fun _ => rfl

theorem ignoresPort_reservePut (h : j ≠ s.active) (n : Port → U32) :
    IgnoresPort j r s fun s p => reservePut (n p) s p := fun p => by
  unfold reservePut casPutc reject
  simp only [State.replacePort_putc]
  by_cases hc : s.putc = p.ps
  · simp only [hc, if_true]
    exact congrArg _ (setPort_replacePort (s := { s with putc := add32 p.ps (n p) }) h _)
  · simp [hc, setPort_replacePort h]

theorem ignoresPort_reserveGet (h : j ≠ s.active) (n : Port → U32) :
    IgnoresPort j r s fun s p => reserveGet (n p) s p := fun p => by
  unfold reserveGet casGetc reject
  simp only [State.replacePort_getc]
  by_cases hc : s.getc = p.gs
  · simp only [hc, if_true]
    exact congrArg _ (setPort_replacePort (s := { s with getc := add32 p.gs (n p) }) h _)
  · simp [hc, setPort_replacePort h]

theorem ignoresPort_pollG (h : j ≠ s.active) : IgnoresPort j r s pollG := fun _ =>
  withSlot_replacePort fun _ _ => congrArg _ (setPort_replacePort h _)

theorem ignoresPort_pollPForWrite (h : j ≠ s.active) : IgnoresPort j r s pollPForWrite := fun _ =>
  withSlot_replacePort fun _ _ => congrArg _ (setPort_replacePort h _)

theorem ignoresPort_pollPForRead (h : j ≠ s.active) : IgnoresPort j r s pollPForRead := fun _ =>
  withSlot_replacePort fun _ _ => congrArg _ (setPort_replacePort h _)

/-- A write of the port's slot and then of the port's record: XFER of a producer, CLEAR and PUBLISH. -/
theorem setSlot_setPort_replacePort (h : j ≠ s.active) (i : Nat) (v : Slot) (p : Port) :
    ((s.replacePort j r).setSlot i v).setPort p = ((s.setSlot i v).setPort p).replacePort j r :=
  setPort_replacePort (s := s.setSlot i v) h p

theorem ignoresPort_xferWrite (h : j ≠ s.active) (k : Port → Nat) :
    IgnoresPort j r s fun s p => xferWrite (k p) s p := fun _ =>
  withSlot_replacePort fun _ _ => congrArg _ (setSlot_setPort_replacePort h _ _ _)

theorem ignoresPort_xferRead (h : j ≠ s.active) (before : Port → List Item) :
    IgnoresPort j r s fun s p => xferRead (before p) s p := fun _ =>
  withSlot_replacePort fun _ sl => by cases sl.val <;> simp [setPort_replacePort h]

theorem ignoresPort_clearSlot (h : j ≠ s.active) : IgnoresPort j r s clearSlot := fun _ =>
  withSlot_replacePort fun _ _ => congrArg _ (setSlot_setPort_replacePort h _ _ _)

theorem ignoresPort_publishPut (h : j ≠ s.active) (p' : Port → Port) :
    IgnoresPort j r s fun s p => publishPut (p' p) s p := fun _ =>
  withSlot_replacePort fun _ _ => congrArg _ (setSlot_setPort_replacePort h _ _ _)

theorem ignoresPort_publishGet (h : j ≠ s.active) (p' : Port → Port) :
    IgnoresPort j r s fun s p => publishGet (p' p) s p := fun _ =>
  withSlot_replacePort fun _ _ => congrArg _ (setSlot_setPort_replacePort h _ _ _)

/-! ### The step labels -/

theorem ignoresPort_putLabel (h : j ≠ s.active) (pc : Phase) : IgnoresPort j r s (putLabel pc) := by
  cases pc
  case snapP =>
    intro p
    simp only [putLabel, putSnapP, reject, goReserve, Port.snapshot_replacePort, State.replacePort_cap,
      setPort_replacePort h]
    split <;> rfl
  case snapG => exact ignoresPort_snapG h
  case reserve => exact ignoresPort_reservePut h _
  case pollG => exact ignoresPort_pollG h
  case pollP => exact ignoresPort_pollPForWrite h
  case xfer => exact ignoresPort_xferWrite h _
  case publish => exact ignoresPort_publishPut h _
  all_goals exact ignoresPort_noStep

theorem ignoresPort_putbLabel (h : j ≠ s.active) (pc : Phase) : IgnoresPort j r s (putbLabel pc) := by
  cases pc
  case snapP =>
    intro p
    simp only [putbLabel, putbSnapP, reject, goReserve, Port.snapshot_replacePort, State.replacePort_cap,
      setPort_replacePort h]
    split <;> rfl
  case snapG => exact ignoresPort_snapG h
  case reserve => exact ignoresPort_reservePut h _
  case pollG => exact ignoresPort_pollG h
  case pollP => exact ignoresPort_pollPForWrite h
  case xfer => exact ignoresPort_xferWrite h _
  case publish => exact ignoresPort_publishPut h _
  all_goals exact ignoresPort_noStep

theorem ignoresPort_getLabel (h : j ≠ s.active) (pc : Phase) : IgnoresPort j r s (getLabel pc) := by
  cases pc
  case snapP =>
    intro p
    simp only [getLabel, getSnapP, reject, goReserve, Port.snapshot_replacePort, setPort_replacePort h]
    split <;> rfl
  case snapG => exact ignoresPort_snapG h
  case reserve => exact ignoresPort_reserveGet h _
  case pollG => exact ignoresPort_pollG h
  case pollP => exact ignoresPort_pollPForRead h
  case xfer => exact ignoresPort_xferRead h _
  case clear => exact ignoresPort_clearSlot h
  case publish => exact ignoresPort_publishGet h _
  all_goals exact ignoresPort_noStep

theorem ignoresPort_getbLabel (h : j ≠ s.active) (pc : Phase) : IgnoresPort j r s (getbLabel pc) := by
  cases pc
  case snapP =>
    intro p
    simp only [getbLabel, getbSnapP, reject, goReserve, Port.snapshot_replacePort, setPort_replacePort h]
    split <;> rfl
  case snapG => exact ignoresPort_snapG h
  case reserve => exact ignoresPort_reserveGet h _
  case pollG => exact ignoresPort_pollG h
  case pollP => exact ignoresPort_pollPForRead h
  case xfer => exact ignoresPort_xferRead h _
  case clear => exact ignoresPort_clearSlot h
  case publish => exact ignoresPort_publishGet h _
  all_goals exact ignoresPort_noStep

theorem ignoresPort_occLabel (h : j ≠ s.active) (pc : Phase) : IgnoresPort j r s (occLabel pc) := by
  cases pc
  case snapG => exact ignoresPort_snapG h
  case snapP => exact ignoresPort_setPort h fun _ => rfl
  all_goals exact ignoresPort_noStep

theorem ignoresPort_capLabel (h : j ≠ s.active) (pc : Phase) : IgnoresPort j r s (capLabel pc) := by
  cases pc
  case capq => exact ignoresPort_setPort h fun _ => rfl
  all_goals exact ignoresPort_noStep

theorem ignoresPort_statLabel (h : j ≠ s.active) (pc : Phase) : IgnoresPort j r s (statLabel pc) := by
  cases pc
  case snapG => exact ignoresPort_snapG h
  case snapP => exact ignoresPort_setPort h fun _ => rfl
  all_goals exact ignoresPort_noStep

/-! ### The turn -/

theorem runStep_replacePort {label : Phase → State → Port → Result} (h : j ≠ s.active)
    (hl : ∀ pc, IgnoresPort j r s (label pc)) (i : Instr) :
    runStep i label (s.replacePort j r) = mapNext (State.replacePort j r) (runStep i label s) := by
  unfold runStep
  rw [activePort?_replacePort h]
  cases s.activePort? with
  | none => rfl
  | some p =>
    by_cases hpc : p.pc = .idle
    · simp [hpc, issue_replacePort h]
    · by_cases hop : p.op = i.opcode
      · simpa [hpc, hop] using hl p.pc p
      · simp [hpc, hop]

theorem exec_replacePort (h : j ≠ s.active) (i : Instr) :
    exec i (s.replacePort j r) = mapNext (State.replacePort j r) (exec i s) := by
  cases i
  case put => exact runStep_replacePort h (ignoresPort_putLabel h) _
  case putb => exact runStep_replacePort h (ignoresPort_putbLabel h) _
  case get => exact runStep_replacePort h (ignoresPort_getLabel h) _
  case getb => exact runStep_replacePort h (ignoresPort_getbLabel h) _
  case occ => exact runStep_replacePort h (ignoresPort_occLabel h) _
  case cap => exact runStep_replacePort h (ignoresPort_capLabel h) _
  case stat => exact runStep_replacePort h (ignoresPort_statLabel h) _

/-- A port finds the same operation to step whatever the other ports hold. -/
theorem fetch_replacePort (h : j ≠ s.active) : fetch (s.replacePort j r) = fetch s := by
  unfold fetch; rw [activePort?_replacePort h]

theorem refuseWord_replacePort (h : j ≠ s.active) :
    refuseWord (s.replacePort j r) = (refuseWord s).replacePort j r := by
  unfold refuseWord raiseIllegal
  rw [activePort?_replacePort h]
  cases s.activePort? with
  | none => rfl
  | some p => exact setPort_replacePort h _

theorem stepPort_replacePort (h : j ≠ s.active) :
    stepPort (s.replacePort j r) = mapNext (State.replacePort j r) (stepPort s) := by
  unfold stepPort
  rw [fetch_replacePort h]
  cases fetch s with
  | noPort => rfl
  | waiting => rfl
  | illegalWord => exact congrArg _ (refuseWord_replacePort h)
  | command i => exact exec_replacePort h i
  | stuck p => rfl

end ignores

end Sys2Proof.Machine
end

section
/-! PROOF. Everything a turn of an existing port can answer, the stops included: the counterpart of `step_next`. -/

namespace Sys2Proof.Safety

open Sys2Proof.Machine

/-- What a turn of a port whose record is `p` can answer: a next state, or a stop and the condition under which it is
raised (rules R14, R28, R52, U6; notes/assumptions/11.md to 13.md). -/
inductive PortAnswer (s : State) (p : Port) : Result → Prop where
  | next (t : State) : PortAnswer s p (.next t)
  | emptySlotRead (hpc : p.pc = .xfer) (hop : consumerOp p.op = true) (hv : (slotOf s p.pos).val = none) :
      PortAnswer s p (.fault (.emptySlotRead p.pos))
  | noEnabledStep (h : labelExists p.op p.pc = false) : PortAnswer s p (noStep p)
  | noSuchSlot (hpc : p.pc ≠ .idle) (hi : s.cap.toNat ≤ slotIndex s.mask p.pos) :
      PortAnswer s p (.fault (.noSuchSlot (slotIndex s.mask p.pos)))

section labels

variable {s : State} {p : Port}

theorem reservePut_answer (n : U32) : PortAnswer s p (reservePut n s p) := by
  unfold reservePut; split <;> exact .next _

theorem reserveGet_answer (n : U32) : PortAnswer s p (reserveGet n s p) := by
  unfold reserveGet; split <;> exact .next _

variable (busy : p.pc ≠ .idle)
include busy

/-- A step that reaches the slot of `x[pos]` answers what it answers on that slot, when there is one. -/
theorem withSlot_answer {f : Nat → Slot → Result}
    (h : PortAnswer s p (f (slotIndex s.mask p.pos) (slotOf s p.pos))) : PortAnswer s p (withSlot s p f) := by
  by_cases hi : slotIndex s.mask p.pos < s.cap.toNat
  · rw [withSlot_of_lt f hi]; exact h
  · have hn : s.slot? (slotIndex s.mask p.pos) = none := slot?_eq_none.mpr (Nat.not_lt.mp hi)
    simp only [withSlot, hn]
    exact .noSuchSlot busy (Nat.not_lt.mp hi)

/-- XFER of a consumer is the one step that may find no value (rule R124, U6). -/
theorem xferRead_answer (before : List Item) (hpc : p.pc = .xfer) (hop : consumerOp p.op = true) :
    PortAnswer s p (xferRead before s p) := by
  refine withSlot_answer busy ?_
  cases hv : (slotOf s p.pos).val with
  | none => exact .emptySlotRead hpc hop hv
  | some d => exact .next _

theorem pollG_answer : PortAnswer s p (pollG s p) := withSlot_answer busy (.next _)

theorem pollPForWrite_answer : PortAnswer s p (pollPForWrite s p) := withSlot_answer busy (.next _)

theorem pollPForRead_answer : PortAnswer s p (pollPForRead s p) := withSlot_answer busy (.next _)

theorem xferWrite_answer (k : Nat) : PortAnswer s p (xferWrite k s p) := withSlot_answer busy (.next _)

theorem clearSlot_answer : PortAnswer s p (clearSlot s p) := withSlot_answer busy (.next _)

theorem publishPut_answer (p' : Port) : PortAnswer s p (publishPut p' s p) := withSlot_answer busy (.next _)

theorem publishGet_answer (p' : Port) : PortAnswer s p (publishGet p' s p) := withSlot_answer busy (.next _)

/-! ### The step labels -/

theorem putLabel_answer (hop : p.op = 0x01#8) : PortAnswer s p (putLabel p.pc s p) := by
  cases hpc : p.pc
  case idle => exact absurd hpc busy
  case snapG => exact .next _
  case snapP => simp only [putLabel, putSnapP]; split <;> exact .next _
  case reserve => exact reservePut_answer _
  case pollG => exact pollG_answer busy
  case pollP => exact pollPForWrite_answer busy
  case xfer => exact xferWrite_answer busy _
  case publish => exact publishPut_answer busy _
  all_goals exact .noEnabledStep (by rw [hop, hpc]; rfl)

theorem putbLabel_answer (hop : p.op = 0x02#8) : PortAnswer s p (putbLabel p.pc s p) := by
  cases hpc : p.pc
  case idle => exact absurd hpc busy
  case snapG => exact .next _
  case snapP => simp only [putbLabel, putbSnapP]; split <;> exact .next _
  case reserve => exact reservePut_answer _
  case pollG => exact pollG_answer busy
  case pollP => exact pollPForWrite_answer busy
  case xfer => exact xferWrite_answer busy _
  case publish => exact publishPut_answer busy _
  all_goals exact .noEnabledStep (by rw [hop, hpc]; rfl)

theorem getLabel_answer (hop : p.op = 0x03#8) : PortAnswer s p (getLabel p.pc s p) := by
  cases hpc : p.pc
  case idle => exact absurd hpc busy
  case snapG => exact .next _
  case snapP => simp only [getLabel, getSnapP]; split <;> exact .next _
  case reserve => exact reserveGet_answer _
  case pollG => exact pollG_answer busy
  case pollP => exact pollPForRead_answer busy
  case xfer => exact xferRead_answer busy _ hpc (by rw [hop]; rfl)
  case clear => exact clearSlot_answer busy
  case publish => exact publishGet_answer busy _
  all_goals exact .noEnabledStep (by rw [hop, hpc]; rfl)

theorem getbLabel_answer (hop : p.op = 0x04#8) : PortAnswer s p (getbLabel p.pc s p) := by
  cases hpc : p.pc
  case idle => exact absurd hpc busy
  case snapG => exact .next _
  case snapP => simp only [getbLabel, getbSnapP]; split <;> exact .next _
  case reserve => exact reserveGet_answer _
  case pollG => exact pollG_answer busy
  case pollP => exact pollPForRead_answer busy
  case xfer => exact xferRead_answer busy _ hpc (by rw [hop]; rfl)
  case clear => exact clearSlot_answer busy
  case publish => exact publishGet_answer busy _
  all_goals exact .noEnabledStep (by rw [hop, hpc]; rfl)

theorem occLabel_answer (hop : p.op = 0x05#8) : PortAnswer s p (occLabel p.pc s p) := by
  cases hpc : p.pc
  case idle => exact absurd hpc busy
  case snapG => exact .next _
  case snapP => exact .next _
  all_goals exact .noEnabledStep (by rw [hop, hpc]; rfl)

theorem capLabel_answer (hop : p.op = 0x06#8) : PortAnswer s p (capLabel p.pc s p) := by
  cases hpc : p.pc
  case idle => exact absurd hpc busy
  case capq => exact .next _
  all_goals exact .noEnabledStep (by rw [hop, hpc]; rfl)

theorem statLabel_answer (hop : p.op = 0x07#8) : PortAnswer s p (statLabel p.pc s p) := by
  cases hpc : p.pc
  case idle => exact absurd hpc busy
  case snapG => exact .next _
  case snapP => exact .next _
  all_goals exact .noEnabledStep (by rw [hop, hpc]; rfl)

end labels

/-! ### The turn -/

section turn

variable {s : State} {p : Port}

/-- `exec` of the operation that the port has latched, or of any operation on an idle port. -/
theorem runStep_answer {i : Instr} {label : Phase → State → Port → Result} (hp : s.activePort? = some p)
    (hop : p.pc ≠ .idle → p.op = i.opcode) (hl : p.pc ≠ .idle → p.op = i.opcode → PortAnswer s p (label p.pc s p)) :
    PortAnswer s p (runStep i label s) := by
  simp only [runStep, hp]
  by_cases hpc : p.pc = .idle
  · rw [if_pos hpc]; exact .next _
  · rw [if_neg hpc, if_pos (hop hpc)]; exact hl hpc (hop hpc)

theorem exec_answer {i : Instr} (hp : s.activePort? = some p) (hop : p.pc ≠ .idle → p.op = i.opcode) :
    PortAnswer s p (exec i s) := by
  cases i
  case put => exact runStep_answer hp hop putLabel_answer
  case putb => exact runStep_answer hp hop putbLabel_answer
  case get => exact runStep_answer hp hop getLabel_answer
  case getb => exact runStep_answer hp hop getbLabel_answer
  case occ => exact runStep_answer hp hop occLabel_answer
  case cap => exact runStep_answer hp hop capLabel_answer
  case stat => exact runStep_answer hp hop statLabel_answer

/-- The latched operation is the one of the opcode register (rule R33). -/
theorem ofLatched_opcode {op : BitVec 8} {arg : U32} {i : Instr} (h : Instr.ofLatched op arg = some i) :
    op = i.opcode := by
  revert h
  fun_cases Instr.ofLatched op arg <;> rintro ⟨⟩ <;> assumption

/-- An opcode that names no operation has no step label (rules R14, R34). -/
theorem labelExists_of_ofLatched_none {op : BitVec 8} {arg : U32} {pc : Phase} (h : Instr.ofLatched op arg = none)
    (hpc : pc ≠ .idle) : labelExists op pc = false := by
  revert h
  fun_cases Instr.ofLatched op arg <;> rintro ⟨⟩
  cases pc <;> simp_all [labelExists, snapshotOp, producerOp, consumerOp]

theorem stepPort_answer (hp : s.activePort? = some p) : PortAnswer s p (stepPort s) := by
  by_cases hpc : p.pc = .idle
  · cases hc : p.cmds with
    | nil => rw [stepPort_waiting hp hpc hc]; exact .next _
    | cons c cs =>
      cases hd : decode c.word with
      | none => rw [stepPort_illegal hp hpc hc hd]; exact .next _
      | some i => rw [stepPort_presented hp hpc hc hd]; exact exec_answer hp (absurd hpc)
  · cases hj : Instr.ofLatched p.op p.arg with
    | none => rw [stepPort_stuck hp hpc hj]; exact .noEnabledStep (labelExists_of_ofLatched_none hj hpc)
    | some i => rw [stepPort_latched hp hpc hj]; exact exec_answer hp fun _ => ofLatched_opcode hj

/-- A turn of an existing port answers a next state or one of the three stops. -/
theorem step_answer {i : Nat} (hn : nextTurn s = .port i) (hp : s.ports[i]? = some p) :
    PortAnswer (turnState s i) p (step s) := by
  rw [step_of_port hn]; exact stepPort_answer (by simpa using hp)

/-- With a legal capacity every position has its slot (rule R52). -/
theorem slotIndex_lt {cap mask pos : U32} (h : capacityOk cap mask) : slotIndex mask pos < cap.toNat := by
  rw [slotIndex_eq_mod h]; exact Nat.mod_lt _ (capacity_pos h)

/-- The two stops that no reset leaves are shut out by a step label and a slot for `x[pos]`. -/
theorem step_next_or_emptySlotRead {i : Nat} (hn : nextTurn s = .port i) (hp : s.ports[i]? = some p)
    (hlabel : labelExists p.op p.pc = true) (hslot : p.pc ≠ .idle → slotIndex s.mask p.pos < s.cap.toNat) :
    (∃ t, step s = .next t) ∨
      (step s = .fault (.emptySlotRead p.pos) ∧ p.pc = .xfer ∧ consumerOp p.op = true ∧
        (slotOf s p.pos).val = none) := by
  have answer := step_answer hn hp
  generalize step s = r at answer
  cases answer with
  | next t => exact .inl ⟨t, rfl⟩
  | emptySlotRead hpc hop hv => exact .inr ⟨rfl, hpc, hop, by simpa [slotOf] using hv⟩
  | noEnabledStep h => rw [hlabel] at h; cases h
  | noSuchSlot hpc hi =>
    have := hslot hpc
    simp only [turnState_cap, turnState_mask] at hi
    omega

/-- In a legal configuration the slot of a busy port's position exists: a refused one has no busy port (rule R42). -/
theorem slotIndex_lt_of_configOk (h : configOk s) (hp : p ∈ s.ports) (hpc : p.pc ≠ .idle) :
    slotIndex s.mask p.pos < s.cap.toNat := by
  rcases h with ⟨-, hcap⟩ | ⟨-, -, -, -, -, -, hfinal⟩
  · exact slotIndex_lt hcap
  · exact absurd (hfinal p hp) hpc

/-- Under the protocol invariant a consumer at XFER finds an item in its slot (rule R44(f)). -/
theorem ProtocolAt.slotOf_val_ne_none {u : Unwrapped} {i : Nat} (h : ProtocolAt u s) (hp : s.ports[i]? = some p)
    (hop : consumerOp p.op = true) (hpc : p.pc = .xfer) : (slotOf s p.pos).val ≠ none := by
  have hh : Port.holding p = true := by simp [Port.holding, hpc]
  rw [slotOf, h.slotIndex_pos hp hh]
  exact ((h.ports i p hp).handshake hh).getFull hop (.inl hpc)

end turn

end Sys2Proof.Safety
end

section
/-! PROOF. A width bound on items goes through every move of a port and through reset (rules R9, R31, R37, R83). -/

namespace Sys2Proof.Safety

open Sys2Proof.Machine

/-- The item that a slot holds, if any, is a `w`-bit value (rule R31). -/
def slotFits (w : Nat) (sl : Slot) : Prop := ∀ d, sl.val = some d → Item.fits w d = true

/-- Every item in the slots is a `w`-bit value. -/
def slotsFit (w : Nat) (s : State) : Prop := ∀ j, slotFits w (readSlot s.cap s.slots j)

/-- Every item that a port holds, has answered with or will be presented is a `w`-bit value (rules R35, R37, R83). -/
structure PortFits (w : Nat) (p : Port) : Prop where
  inItems : laneWidthOk w p.inItems = true
  outItems : laneWidthOk w p.outItems = true
  out : laneWidthOk w p.rsp.out = true
  cmds : ∀ c ∈ p.cmds, laneWidthOk w c.lane = true

theorem itemsFit_iff {w : Nat} {s : State} : itemsFit w s ↔ slotsFit w s ∧ ∀ p ∈ s.ports, PortFits w p :=
  and_congr Iff.rfl (forall₂_congr fun _ _ => ⟨fun ⟨h1, h2, h3, h4⟩ => ⟨h1, h2, h3, h4⟩,
    fun ⟨h1, h2, h3, h4⟩ => ⟨h1, h2, h3, h4⟩⟩)

/-! ### Lanes -/

theorem laneWidthOk_iff {w : Nat} {l : List Item} : laneWidthOk w l = true ↔ ∀ x ∈ l, Item.fits w x = true := by
  simp [laneWidthOk]

@[simp] theorem laneWidthOk_nil (w : Nat) : laneWidthOk w [] = true := rfl

@[simp] theorem laneWidthOk_append_singleton (w : Nat) (l : List Item) (d : Item) :
    laneWidthOk w (l ++ [d]) = (laneWidthOk w l && Item.fits w d) := by
  simp [laneWidthOk]

/-- Every item read of a fitting lane fits, the zeros past its end included (notes/assumptions/7.md). -/
theorem fits_itemAt {w : Nat} {l : List Item} (h : laneWidthOk w l = true) (k : Nat) :
    Item.fits w (itemAt l k) = true := by
  unfold itemAt
  by_cases hk : k < l.length
  · rw [List.getD_eq_getElem _ _ hk]; exact laneWidthOk_iff.mp h _ (List.getElem_mem hk)
  · rw [List.getD_eq_default _ _ (Nat.not_lt.mp hk)]; simp [Item.fits]

/-- What issue latches is a part of the lane presented (rule R91). -/
theorem laneWidthOk_latchedItems {w : Nat} {cmds : List Command} (h : ∀ c ∈ cmds, laneWidthOk w c.lane = true)
    (i : Instr) : laneWidthOk w (latchedItems i cmds) = true := by
  cases cmds with
  | nil => rfl
  | cons c cs =>
    have hc := laneWidthOk_iff.mp (h c List.mem_cons_self)
    exact laneWidthOk_iff.mpr fun x hx => hc x (List.mem_of_mem_take hx)

/-! ### Slots -/

/-- Writing a slot with a fitting one keeps all items fitting. -/
theorem slotsFit_write {w : Nat} {s : State} {i : Nat} {v : Slot} (hm : Memory.wf s.cap s.slots = true)
    (hs : slotsFit w s) (hv : slotFits w v) (j : Nat) : slotFits w (readSlot s.cap (writeSlot s.cap s.slots i v) j) := by
  rw [readSlot_write v hm]; split
  · exact hv
  · exact hs j

/-- Only a producer's XFER puts an item into a slot, the one of its lane (rule R123). -/
theorem portMove_slotsFit {w : Nat} {s t : State} {p : Port} (hm : Memory.wf s.cap s.slots = true) (hs : slotsFit w s)
    (hp : PortFits w p) (h : PortMove s p t) : slotsFit w t := by
  cases h
  case stored k _ _ _ =>
    refine slotsFit_write hm hs fun d hd => ?_
    obtain rfl : itemAt p.inItems k = d := by simpa using hd
    exact fits_itemAt hp.inItems k
  case cleared => exact slotsFit_write hm hs fun d hd => by simp at hd
  case publishedNext => exact slotsFit_write hm hs (hs _)
  case publishedLast => exact slotsFit_write hm hs (hs _)
  case releasedNext => exact slotsFit_write hm hs (hs _)
  case releasedLast => exact slotsFit_write hm hs (hs _)
  all_goals exact hs

/-! ### Ports -/

theorem PortFits.respond {w : Nat} {p : Port} (h : PortFits w p) {r : Rsp} (hr : laneWidthOk w r.out = true) :
    PortFits w (p.respond r) := ⟨h.inItems, h.outItems, hr, h.cmds⟩

theorem PortFits.tail_cmds {w : Nat} {p : Port} (h : PortFits w p) : ∀ c ∈ p.cmds.tail, laneWidthOk w c.lane = true :=
  fun c hc => h.cmds c (List.mem_of_mem_tail hc)

/-- The items a port holds after its move are among those it held, those presented to it and the one of its slot. -/
theorem portMove_portFits {w : Nat} {s t : State} {p : Port} (hs : slotsFit w s) (hp : PortFits w p)
    (h : PortMove s p t) : ∃ p', t.ports = s.ports.set s.active p' ∧ PortFits w p' := by
  cases h
  case refused => exact ⟨_, rfl, hp.inItems, hp.outItems, rfl, hp.tail_cmds⟩
  case issued i _ _ => exact ⟨_, rfl, laneWidthOk_latchedItems hp.cmds i, rfl, hp.out, hp.tail_cmds⟩
  case taken before d _ hop _ hd =>
    have hbefore : laneWidthOk w before = true := by
      rcases hop with ⟨-, rfl⟩ | ⟨-, rfl⟩
      · rfl
      · exact hp.outItems
    exact ⟨_, rfl, hp.inItems, by simp [hbefore, hs _ d hd], hp.out, hp.cmds⟩
  case rejected => exact ⟨_, rfl, hp.inItems, hp.outItems, rfl, hp.cmds⟩
  case rejectedBatch => exact ⟨_, rfl, hp.inItems, hp.outItems, rfl, hp.cmds⟩
  case answeredOcc => exact ⟨_, rfl, hp.inItems, hp.outItems, rfl, hp.cmds⟩
  case answeredStat => exact ⟨_, rfl, hp.inItems, hp.outItems, rfl, hp.cmds⟩
  case answeredCap => exact ⟨_, rfl, hp.respond rfl⟩
  case contended => exact ⟨_, rfl, hp.respond rfl⟩
  case publishedLast => exact ⟨_, rfl, hp.respond rfl⟩
  case releasedLast => exact ⟨_, rfl, hp.respond hp.outItems⟩
  all_goals exact ⟨_, rfl, hp.inItems, hp.outItems, hp.out, hp.cmds⟩

/-- A reset event leaves the slots and the item buffers empty (rule R180; notes/assumptions/4.md, 16.md). -/
theorem itemsFit_resetEvent {w : Nat} {s : State} (h : itemsFit w s) (req : U32) : itemsFit w (resetEvent req s) := by
  obtain ⟨-, hports⟩ := itemsFit_iff.mp h
  refine itemsFit_iff.mpr ⟨fun j d hd => ?_, fun p hp => ?_⟩
  · simp [readSlot] at hd
  · obtain ⟨q, hq, rfl⟩ := List.mem_map.mp hp
    exact ⟨rfl, rfl, rfl, (hports q hq).cmds⟩

theorem itemsFit_turnState {w : Nat} {s : State} (i : Nat) : itemsFit w (turnState s i) ↔ itemsFit w s := by
  simp [itemsFit]

theorem itemsFit_afterTurn {w : Nat} {s : State} : itemsFit w (afterTurn s) ↔ itemsFit w s := by
  simp [itemsFit]

/-- A move of a port of the block. -/
theorem portMove_itemsFit {w : Nat} {s t : State} {p : Port} (hm : Memory.wf s.cap s.slots = true) (hs : itemsFit w s)
    (hp : p ∈ s.ports) (h : PortMove s p t) : itemsFit w t := by
  obtain ⟨hslots, hports⟩ := itemsFit_iff.mp hs
  obtain ⟨p', ht, hp'⟩ := portMove_portFits hslots (hports p hp) h
  exact itemsFit_iff.mpr ⟨portMove_slotsFit hm hslots (hports p hp) h, forall_ports_set ht hports hp'⟩

end Sys2Proof.Safety
end

section
/-! PROOF. The statements about turns and ports, settled (00_scope.md rules R9, R11, R14). -/

namespace Sys2Proof.Proofs

open Sys2Proof.Machine Sys2Proof.Safety

/-- Settles O37: a turn in which the port waits keeps all records, a move replaces the one of its own port. -/
theorem otherPortsUntouched : Obligations.OtherPortsUntouched := by
  intro s t i j hn h hj
  rcases step_next h with ⟨req, hr, -⟩ | ⟨i', p, hi, -, -, -, rfl⟩ | ⟨i', p, hi, -, hm⟩
  · rw [hn] at hr; cases hr
  · simp
  · rw [hn] at hi; cases hi
    obtain ⟨p', ht⟩ := portMove_ports hm
    simp [ht, Ne.symm hj]

/-- Settles O38: the step commutes with replacing the other port's record, in all three outcomes. -/
theorem stepIgnoresOtherPorts : Obligations.StepIgnoresOtherPorts := by
  intro s i j r hn hj
  have commutes : step (s.replacePort j r) = mapNext (State.replacePort j r) (step s) := by
    rw [step_of_port hn, step_of_port ((nextTurn_replacePort j r s).trans hn), turnState_replacePort]
    exact stepPort_replacePort hj
  refine ⟨fun t h => ?_, fun f h => ?_, fun f h => ?_⟩ <;> rw [h] at commutes <;> exact commutes

/-- Settles O42, from the phase of each move. -/
theorem phasesFollowR34 : Obligations.PhasesFollowR34 := by
  intro s t hs h
  rcases step_next h with ⟨req, hn, rfl⟩ | ⟨i, p, hn, hp, hpc, -, rfl⟩ | ⟨i, p, hn, hp, hm⟩
  · refine ⟨fun q hq => ?_, fun i _ _ hi => by rw [hn] at hi; cases hi⟩
    obtain ⟨r, -, rfl⟩ := List.mem_map.mp (by simpa using hq)
    rfl
  · refine ⟨fun q hq => hs q (by simpa using hq), fun i' q q' hi hq hq' => ?_⟩
    rw [hn] at hi; cases hi
    rw [hp] at hq; cases hq
    rw [turnState_ports, hp] at hq'; cases hq'
    rw [hpc]; rfl
  · obtain ⟨p', ht, hlabel, hsucc⟩ := portMove_phase hm
    simp only [turnState_ports, turnState_active] at ht
    refine ⟨forall_ports_set ht hs hlabel, fun i' q q' hi hq hq' => ?_⟩
    rw [hn] at hi; cases hi
    rw [hp] at hq; cases hq
    have hlt := (List.getElem?_eq_some_iff.mp hp).1
    rw [ht, List.getElem?_set_self hlt] at hq'; cases hq'
    exact hsucc

/-- Settles O50: of the stops, a legal configuration leaves the empty read, and the protocol invariant none. -/
theorem everyTurnHasAStep : Obligations.EveryTurnHasAStep := by
  intro s i p hn hp
  have hmem : p ∈ s.ports := List.mem_of_getElem? hp
  refine ⟨fun hc hph => step_next_or_emptySlotRead hn hp (hph p hmem) (slotIndex_lt_of_configOk hc hmem), ?_⟩
  rintro ⟨u, hu⟩
  rcases step_next_or_emptySlotRead hn hp (hu.ports i p hp).phase (fun _ => slotIndex_lt hu.capacity) with
    ht | ⟨-, hpc, hop, hv⟩
  · exact ht
  · exact absurd hv (hu.slotOf_val_ne_none hp hop hpc)

/-- Settles O56: no kind of turn makes an item that was not there. -/
theorem itemWidthKept : Obligations.ItemWidthKept := by
  intro w s t hm hs h
  rcases step_next h with ⟨req, -, rfl⟩ | ⟨i, p, -, -, -, -, rfl⟩ | ⟨i, p, -, hp, hmove⟩
  · exact itemsFit_resetEvent (itemsFit_afterTurn.mpr hs) req
  · exact (itemsFit_turnState i).mpr hs
  · exact portMove_itemsFit (by simpa using hm) ((itemsFit_turnState i).mpr hs)
      (by simpa using List.mem_of_getElem? hp) hmove

/-- Settles O6: both ways of taking the turn give `turnState s i`, and there `stepPort` has one equation per case. -/
theorem stepRunsTheCommand : Obligations.StepRunsTheCommand := by
  intro s s₁ i p hs₁ hp
  have turn : nextTurn s = .port i ∧ s₁ = turnState s i := by
    rcases hs₁ with ⟨ts, hs, rfl⟩ | ⟨hs, rfl, rfl⟩
    · exact ⟨nextTurn_of_sched hs, (turnState_of_sched hs i).symm⟩
    · exact ⟨nextTurn_of_sched_nil hs, (turnState_of_sched_nil hs _).symm⟩
  obtain ⟨hn, rfl⟩ := turn
  have hp' : (turnState s i).activePort? = some p := by simpa using hp
  rw [step_of_port hn]
  exact ⟨fun _ _ _ hpc hc hd => stepPort_presented hp' hpc hc hd, fun hpc hc => stepPort_waiting hp' hpc hc,
    fun _ hpc hj => stepPort_latched hp' hpc hj⟩

/-- Settles O57, on the numbers that the bits spell. -/
theorem payloadBitsOfR9 : Obligations.PayloadBitsOfR9 := by
  intro w
  have none_bits : payloadBits w none = 0#(1 + w) := by
    apply BitVec.eq_of_toNat_eq; simp [payloadBits]
  refine ⟨none_bits, fun d hd => ?_⟩
  have hlt : d < 2 ^ w := by simpa [Item.fits] using hd
  have some_toNat : (payloadBits w (some d)).toNat = 2 ^ w + d := by
    simp only [payloadBits, BitVec.toNat_append, BitVec.toNat_ofNat, Nat.mod_eq_of_lt hlt]
    rw [← Nat.shiftLeft_add_eq_or_of_lt hlt]; simp [Nat.shiftLeft_eq]
  refine ⟨some_toNat, fun h => ?_⟩
  have := congrArg BitVec.toNat h
  rw [some_toNat, none_bits, BitVec.toNat_ofNat, Nat.zero_mod] at this
  have := Nat.two_pow_pos w
  omega

end Sys2Proof.Proofs
end

section
/-! PROOF. What a move of a port changes and what it leaves unchanged (rules R11, R33, R37, R43): one lemma for each part of
the state. -/

namespace Sys2Proof.Safety

open Sys2Proof.Machine

section moves

variable {s t : State} {p : Port}

/-- The record that a move writes is the one found at its port afterwards. -/
theorem eq_of_ports_set {a : Nat} {p' q : Port} (hp : s.ports[a]? = some p) (ht : t.ports = s.ports.set a p')
    (hq : t.ports[a]? = some q) : q = p' := by
  rw [ht, List.getElem?_set_self (List.getElem?_eq_some_iff.mp hp).1] at hq
  exact (Option.some.inj hq).symm

/-- No move reconfigures the block (rule R43). -/
theorem portMove_config (h : PortMove s p t) : t.cap = s.cap ∧ t.mask = s.mask ∧ t.cfgErr = s.cfgErr := by
  cases h <;> exact ⟨rfl, rfl, rfl⟩

/-- A move touches neither the environment's fields nor another port (rules R11, R33, R172). -/
theorem portMove_restSame (h : PortMove s p t) : restSame s t := by
  have environment : t.sched = s.sched ∧ t.freeTurns = s.freeTurns ∧ t.active = s.active := by
    cases h <;> exact ⟨rfl, rfl, rfl⟩
  obtain ⟨hsched, hfree, hactive⟩ := environment
  obtain ⟨p', ht⟩ := portMove_ports h
  exact ⟨hsched, hfree, hactive, by rw [ht, List.length_set],
    fun j hj => by rw [ht, List.getElem?_set_ne (Ne.symm hj)]⟩

/-- `PUTC` moves only by a successful CAS of PUT or PUTB (rules R24, R118). -/
theorem portMove_putc (h : PortMove s p t) : t.putc = s.putc ∨
    (p.pc = .reserve ∧ s.putc = p.ps ∧
      ((p.op = 0x01#8 ∧ t.putc = add32 s.putc 1#32) ∨ (p.op = 0x02#8 ∧ t.putc = add32 s.putc p.n))) := by
  cases h
  case reservedPut n hpc hop hps =>
    rw [hps]
    rcases hop with ⟨hop, rfl⟩ | ⟨hop, rfl⟩
    · exact .inr ⟨hpc, rfl, .inl ⟨hop, rfl⟩⟩
    · exact .inr ⟨hpc, rfl, .inr ⟨hop, rfl⟩⟩
  all_goals exact .inl rfl

/-- `GETC` moves only by a successful CAS of GET or GETB (rules R25, R118). -/
theorem portMove_getc (h : PortMove s p t) : t.getc = s.getc ∨
    (p.pc = .reserve ∧ s.getc = p.gs ∧
      ((p.op = 0x03#8 ∧ t.getc = add32 s.getc 1#32) ∨ (p.op = 0x04#8 ∧ t.getc = add32 s.getc p.n))) := by
  cases h
  case reservedGet n hpc hop hgs =>
    rw [hgs]
    rcases hop with ⟨hop, rfl⟩ | ⟨hop, rfl⟩
    · exact .inr ⟨hpc, rfl, .inl ⟨hop, rfl⟩⟩
    · exact .inr ⟨hpc, rfl, .inr ⟨hop, rfl⟩⟩
  all_goals exact .inl rfl

/-- What a step writes into the slot of its port's `x[pos]` (rules R114, R115, R123, R124): the step and the slot's new
record. -/
inductive SlotWrite (s : State) (p : Port) : Slot → Prop where
  | stored (k : Nat) (hpc : p.pc = .xfer) (hop : (p.op = 0x01#8 ∧ k = 0) ∨ (p.op = 0x02#8 ∧ k = p.k.toNat)) :
      SlotWrite s p ((slotOf s p.pos).withVal (some (itemAt p.inItems k)))
  | cleared (hpc : p.pc = .clear) (hop : consumerOp p.op = true) : SlotWrite s p ((slotOf s p.pos).withVal none)
  | published (hpc : p.pc = .publish) (hop : producerOp p.op = true) : SlotWrite s p ((slotOf s p.pos).addPseq s.cap)
  | released (hpc : p.pc = .publish) (hop : consumerOp p.op = true) : SlotWrite s p ((slotOf s p.pos).addGseq s.cap)

/-- The steps that write a slot: a producer's XFER, a consumer's CLEAR, and PUBLISH (rules R123, R124). -/
def Port.writesSlot (p : Port) : Prop :=
  (p.pc = .xfer ∧ producerOp p.op = true) ∨ (p.pc = .clear ∧ consumerOp p.op = true) ∨ p.pc = .publish

theorem SlotWrite.writesSlot {v : Slot} (h : SlotWrite s p v) : Port.writesSlot p := by
  cases h with
  | stored k hpc hop => exact .inl ⟨hpc, producerOp_of_cases hop⟩
  | cleared hpc hop => exact .inr (.inl ⟨hpc, hop⟩)
  | published hpc => exact .inr (.inr hpc)
  | released hpc => exact .inr (.inr hpc)

/-- In those steps a move writes the slot of `x[pos]`, and in every other it leaves the slot array as it is. -/
theorem portMove_slots (h : PortMove s p t) : (¬ Port.writesSlot p ∧ t.slots = s.slots) ∨
    ∃ v, SlotWrite s p v ∧ slotIndex s.mask p.pos < s.cap.toNat ∧
      t.slots = writeSlot s.cap s.slots (slotIndex s.mask p.pos) v := by
  cases h
  case stored k hpc hop hi => exact .inr ⟨_, .stored k hpc hop, hi, rfl⟩
  case cleared hpc hop hi => exact .inr ⟨_, .cleared hpc hop, hi, rfl⟩
  case publishedNext hpc hop _ hi => exact .inr ⟨_, .published hpc (by simp [producerOp, hop]), hi, rfl⟩
  case publishedLast hpc hop hi => exact .inr ⟨_, .published hpc (producerOp_of_cases hop), hi, rfl⟩
  case releasedNext hpc hop _ hi => exact .inr ⟨_, .released hpc (by simp [consumerOp, hop]), hi, rfl⟩
  case releasedLast hpc hop hi => exact .inr ⟨_, .released hpc (consumerOp_of_cases hop), hi, rfl⟩
  case taken hpc hop _ _ =>
    have noPut := producerOp_of_consumerOp (consumerOp_of_cases hop)
    exact .inl ⟨by simp [Port.writesSlot, hpc, noPut], rfl⟩
  all_goals exact .inl ⟨by simp [Port.writesSlot, *], rfl⟩

/-- What every slot reads as after a move (canonical slot array). -/
theorem portMove_readSlot (hm : Memory.wf s.cap s.slots = true) (h : PortMove s p t) :
    (¬ Port.writesSlot p ∧ ∀ k, readSlot t.cap t.slots k = readSlot s.cap s.slots k) ∨
    ∃ v, SlotWrite s p v ∧ slotIndex s.mask p.pos < s.cap.toNat ∧
      ∀ k, readSlot t.cap t.slots k = if k = slotIndex s.mask p.pos then v else readSlot s.cap s.slots k := by
  rw [(portMove_config h).1]
  rcases portMove_slots h with ⟨hno, ht⟩ | ⟨v, hv, hi, ht⟩ <;> rw [ht]
  · exact .inl ⟨hno, fun _ => rfl⟩
  · exact .inr ⟨v, hv, hi, fun k => readSlot_write v hm⟩

/-- Which registers of its port a move leaves as they were, phase by phase (the columns "Written by step" of rules R33 and
R37; the response while `RV = 0`: notes/assumptions/17.md). -/
structure RegistersKept (p p' : Port) : Prop where
  latched : p.pc ≠ .idle → p'.op = p.op ∧ p'.arg = p.arg ∧ p'.inItems = p.inItems ∧ p'.cmds = p.cmds
  gs : p.pc ≠ .snapG → p'.gs = p.gs
  estimate : p.pc ≠ .snapP → p'.ps = p.ps ∧ p'.occ = p.occ ∧ p'.n = p.n
  position : p.pc ≠ .reserve → p.pc ≠ .publish → p'.k = p.k ∧ p'.pos = p.pos
  sg : p.pc ≠ .pollG → p'.sg = p.sg
  sp : p.pc ≠ .pollP → p'.sp = p.sp
  outItems : p.pc ≠ .idle → p.pc ≠ .xfer ∨ consumerOp p.op = false → p'.outItems = p.outItems
  rsp : p'.pc ≠ .idle → p'.rsp = { p.rsp with rv := if p.pc = .idle then false else p.rsp.rv }

theorem portMove_registers (h : PortMove s p t) :
    ∃ p', t.ports = s.ports.set s.active p' ∧ RegistersKept p p' := by
  cases h
  case taken hpc hop _ _ =>
    exact ⟨_, rfl, by constructor <;> simp [hpc, consumerOp_of_cases hop]⟩
  all_goals exact ⟨_, rfl, by constructor <;> simp [*]⟩

/-- OCC, CAP and STAT, and issue: only the port's record changes, and of it none of the registers of a reservation. -/
theorem portMove_of_query (h : PortMove s p t)
    (hq : p.pc ≠ .idle → p.op = 0x05#8 ∨ p.op = 0x06#8 ∨ p.op = 0x07#8) :
    ∃ p', t = s.setPort p' ∧ p'.n = p.n ∧ p'.k = p.k ∧ p'.pos = p.pos ∧ p'.sg = p.sg ∧ p'.sp = p.sp := by
  have busy : p.pc ≠ .idle → producerOp p.op = false ∧ consumerOp p.op = false := fun hpc => by
    rcases hq hpc with hop | hop | hop <;> rw [hop] <;> exact ⟨rfl, rfl⟩
  cases h
  case refused => exact ⟨_, rfl, rfl, rfl, rfl, rfl, rfl⟩
  case issued => exact ⟨_, rfl, rfl, rfl, rfl, rfl, rfl⟩
  case snappedG => exact ⟨_, rfl, rfl, rfl, rfl, rfl, rfl⟩
  case answeredOcc => exact ⟨_, rfl, rfl, rfl, rfl, rfl, rfl⟩
  case answeredStat => exact ⟨_, rfl, rfl, rfl, rfl, rfl, rfl⟩
  case answeredCap => exact ⟨_, rfl, rfl, rfl, rfl, rfl, rfl⟩
  all_goals
    obtain ⟨hput, hget⟩ := busy (by simp [*])
    simp_all [producerOp, consumerOp]

end moves

/-- One step of operation `j` is a move of the port that has the turn, inside `j` unless it issues it. -/
theorem exec_portMove {s t : State} {p : Port} {j : Instr} (hp : s.ports[s.active]? = some p)
    (h : exec j s = .next t) : PortMove s p t ∧ (p.pc ≠ .idle → p.op = j.opcode) := by
  have same : ∀ q, s.activePort? = some q → q = p := fun q hq => Option.some.inj (hq.symm.trans hp)
  obtain ⟨q, hq, hm⟩ := exec_next h
  obtain rfl := same q hq
  have runs : ∃ label, exec j s = runStep j label s := by cases j <;> exact ⟨_, rfl⟩
  obtain ⟨label, hl⟩ := runs
  obtain ⟨r, hr, ⟨hpc, -⟩ | ⟨-, hop, -⟩⟩ := runStep_next (hl ▸ h) <;> obtain rfl := same r hr
  · exact ⟨hm, absurd hpc⟩
  · exact ⟨hm, fun _ => hop⟩

/-- A turn of port `i`: it waits, or it moves. -/
theorem step_of_turn {s t : State} {i : Nat} {p : Port} (hn : nextTurn s = .port i) (hp : s.ports[i]? = some p)
    (h : step s = .next t) : (p.pc = .idle ∧ t = turnState s i) ∨ PortMove (turnState s i) p t := by
  rcases step_next h with ⟨req, hr, -⟩ | ⟨i', q, hi, hq, hpc, -, rfl⟩ | ⟨i', q, hi, hq, hm⟩
  · rw [hn] at hr; cases hr
  · rw [hn] at hi; cases hi
    rw [hp] at hq; cases hq
    exact .inl ⟨hpc, rfl⟩
  · rw [hn] at hi; cases hi
    rw [hp] at hq; cases hq
    exact .inr hm

end Sys2Proof.Safety
end

section
/-! PROOF. Capacity normalisation and the configuration a reset leaves (rules R40, R42, R100 to R104). -/

namespace Sys2Proof.Safety

open Sys2Proof.Machine

/-! ### The smearing of rule R101 -/

/-- Bit `i` of `w` is set when one of the `n` bits of `v` from bit `i` on is. -/
def Smeared (v : U32) (n : Nat) (w : U32) : Prop :=
  ∀ i, w.getLsbD i = true ↔ ∃ d, d < n ∧ v.getLsbD (i + d) = true

theorem smeared_self (v : U32) : Smeared v 1 v := fun i =>
  ⟨fun h => ⟨0, Nat.one_pos, h⟩, fun ⟨d, hd, h⟩ => by
    obtain rfl : d = 0 := Nat.lt_one_iff.mp hd
    exact h⟩

/-- One line `v <- v | (v >> n)` doubles the reach. -/
theorem Smeared.smear {v w : U32} {n : Nat} (h : Smeared v n w) : Smeared v (n + n) (smear w n) := by
  intro i
  simp only [Machine.smear, BitVec.getLsbD_or, BitVec.getLsbD_ushiftRight, Bool.or_eq_true, h i, h (n + i)]
  constructor
  · rintro (⟨d, hd, hv⟩ | ⟨d, hd, hv⟩)
    · exact ⟨d, by omega, hv⟩
    · exact ⟨n + d, by omega, by rwa [show i + (n + d) = n + i + d by omega]⟩
  · rintro ⟨d, hd, hv⟩
    by_cases hn : d < n
    · exact .inl ⟨d, hn, hv⟩
    · exact .inr ⟨d - n, by omega, by rwa [show n + i + (d - n) = i + d by omega]⟩

/-- Smeared over the whole word, a number is all ones up to its highest bit. -/
theorem Smeared.toNat_eq {v w : U32} (h : Smeared v 32 w) (hv : v.toNat ≠ 0) :
    w.toNat = 2 ^ (v.toNat.log2 + 1) - 1 := by
  apply Nat.eq_of_testBit_eq
  intro i
  rw [Nat.testBit_two_pow_sub_one, Bool.eq_iff_iff, decide_eq_true_eq, BitVec.testBit_toNat, h i]
  simp only [← BitVec.testBit_toNat]
  constructor
  · rintro ⟨d, -, hd⟩
    have := (Nat.le_log2 hv).mpr (Nat.ge_two_pow_of_testBit hd)
    omega
  · intro hi
    have hlog : v.toNat.log2 < 32 := (Nat.log2_lt hv).mpr v.isLt
    refine ⟨v.toNat.log2 - i, by omega, ?_⟩
    rw [show i + (v.toNat.log2 - i) = v.toNat.log2 by omega]
    exact Nat.testBit_log2 hv

/-- `norm(r)` is the power of two above the highest bit of `r - 1`, modulo 2^32 (rules R101, R102). -/
theorem norm_toNat {r : U32} (hr : 1 < r.toNat) : (norm r).toNat = 2 ^ ((r.toNat - 1).log2 + 1) % 2 ^ 32 := by
  have hsub : (sub32 r 1#32).toNat = r.toNat - 1 := sub32_toNat (by simpa using hr.le)
  have smeared := (((((smeared_self (sub32 r 1#32)).smear).smear).smear).smear).smear
  have all := Smeared.toNat_eq smeared (by omega)
  rw [hsub] at all
  have := Nat.two_pow_pos ((r.toNat - 1).log2 + 1)
  rw [Machine.norm, if_neg (by omega), add32, BitVec.toNat_add, all]
  simp only [BitVec.toNat_ofNat]
  rw [show 1 % 2 ^ 32 = 1 from rfl, Nat.sub_add_cancel this]

/-- Up to 2^31 the capacity is a power of two (rule R100). -/
theorem norm_pow_two {r : U32} (hr : r.toNat ≤ 0x80000000) : ∃ j, j < 32 ∧ (norm r).toNat = 2 ^ j := by
  by_cases h1 : r.toNat ≤ 1
  · exact ⟨0, by decide, by rw [Machine.norm, if_pos h1]; rfl⟩
  · have hlog : (r.toNat - 1).log2 < 31 := (Nat.log2_lt (by omega)).mpr (by omega)
    refine ⟨(r.toNat - 1).log2 + 1, by omega, ?_⟩
    rw [norm_toNat (by omega), Nat.mod_eq_of_lt (Nat.pow_lt_pow_right (by decide) (by omega))]

/-- Above 2^31 the algorithm of rule R101 overflows to 0 (rule R103). -/
theorem norm_oversize {r : U32} (hr : 0x80000000 < r.toNat) : norm r = 0#32 := by
  have hlog : (r.toNat - 1).log2 = 31 := by
    have hlt := r.isLt
    have h1 : 31 ≤ (r.toNat - 1).log2 := (Nat.le_log2 (by omega)).mpr (by omega)
    have h2 : (r.toNat - 1).log2 < 32 := (Nat.log2_lt (by omega)).mpr (by omega)
    omega
  apply BitVec.eq_of_toNat_eq
  rw [norm_toNat (by omega), hlog]; rfl

/-! ### The configuration after reset -/

section legal

variable {r : U32} (hr : r.toNat ≤ 0x80000000)
include hr

theorem resetCfgErr_legal : resetCfgErr r = false := decide_eq_false (Nat.not_lt.mpr hr)

theorem resetCap_legal : resetCap r = norm r := by rw [resetCap, resetCfgErr_legal hr]; rfl

theorem resetMask_legal : resetMask r = sub32 (norm r) 1#32 := by
  rw [resetMask, resetCfgErr_legal hr, resetCap_legal hr]; rfl

/-- A legal request is granted a legal capacity (rules R21, R22, R100, R104). -/
theorem resetCapacity_ok : capacityOk (resetCap r) (resetMask r) := by
  rw [resetMask_legal hr, resetCap_legal hr]
  exact ⟨norm_pow_two hr, rfl⟩

end legal

section oversize

variable {r : U32} (hr : 0x80000000 < r.toNat)
include hr

theorem resetCfgErr_oversize : resetCfgErr r = true := decide_eq_true hr

theorem resetCap_oversize : resetCap r = 0#32 := by rw [resetCap, resetCfgErr_oversize hr]; rfl

theorem resetMask_oversize : resetMask r = 0#32 := by rw [resetMask, resetCfgErr_oversize hr]; rfl

end oversize

/-- The shared space and the phases as a reset with request `r` leaves them (rules R40 to R42, R180): what the block after
launch and after a reset event have in common. -/
structure FreshFor (r : U32) (s : State) : Prop where
  cap : s.cap = resetCap r
  mask : s.mask = resetMask r
  cfgErr : s.cfgErr = resetCfgErr r
  putc : s.putc = 0#32
  getc : s.getc = 0#32
  slots : s.slots = []
  idle : final s

theorem freshFor_resetWith (r : U32) (n : Nat) : FreshFor r (State.resetWith r n) :=
  ⟨rfl, rfl, rfl, rfl, rfl, rfl, fun p hp => by rw [List.eq_of_mem_replicate hp]; rfl⟩

theorem freshFor_resetEvent (r : U32) (s : State) : FreshFor r (resetEvent r s) :=
  ⟨rfl, rfl, rfl, rfl, rfl, rfl, fun p hp => by obtain ⟨q, -, rfl⟩ := List.mem_map.mp hp; rfl⟩

/-- What a reset leaves is legal or refused (rules R23, R40, R42). -/
theorem FreshFor.configOk {r : U32} {s : State} (h : FreshFor r s) : configOk s := by
  obtain ⟨hcap, hmask, hcfg, hput, hget, hslots, hidle⟩ := h
  rcases Nat.lt_or_ge 0x80000000 r.toNat with hr | hr
  · rw [resetCap_oversize hr] at hcap
    rw [resetMask_oversize hr] at hmask
    rw [resetCfgErr_oversize hr] at hcfg
    exact .inr ⟨hcfg, hcap, hmask, hput, hget, hslots, hidle⟩
  · refine .inl ⟨hcfg.trans (resetCfgErr_legal hr), ?_⟩
    rw [hcap, hmask]; exact resetCapacity_ok hr

/-- Every slot holds its reset contents (rules R40, R116). -/
theorem FreshFor.readSlot_eq {r : U32} {s : State} (h : FreshFor r s) (k : Nat) :
    readSlot s.cap s.slots k = Slot.initial s.cap k := by
  rw [h.slots]; rfl

end Sys2Proof.Safety
end

section
/-! PROOF. The protocol invariant of rule R44 goes through every turn: it holds after a reset with no reservation made, and
each move of a port keeps it at counts that have counted on what the move reserved. -/

namespace Sys2Proof.Safety

open Sys2Proof.Machine

/-! ### After reset -/

section fresh

variable {r : U32} {s : State}

/-- The first position that maps to a slot after reset (rule R116): `CAP` for slot 0, and `k` for slot `k`. -/
def firstPosition (cap : U32) (k : Nat) : Nat := if k = 0 then cap.toNat else k

/-- A slot's counters start at the first position that maps to it. -/
theorem initialSeq_eq_low (cap : U32) (k : Nat) : initialSeq cap k = low (firstPosition cap k) := by
  unfold initialSeq firstPosition
  split
  · exact BitVec.eq_of_toNat_eq (Nat.mod_eq_of_lt cap.isLt).symm
  · rfl

theorem firstPosition_mod {cap : U32} {k : Nat} (hk : k < cap.toNat) : firstPosition cap k % cap.toNat = k := by
  unfold firstPosition
  split
  · simp_all
  · exact Nat.mod_eq_of_lt hk

/-- The first positions are 1 to `CAP`. -/
theorem firstPosition_bounds {cap : U32} {k : Nat} (hk : k < cap.toNat) :
    1 ≤ firstPosition cap k ∧ firstPosition cap k ≤ cap.toNat := by
  unfold firstPosition; split <;> omega

/-- The counts after reset. -/
def freshCounts (cap : U32) : Unwrapped where
  putc := 0
  getc := 0
  gs := fun _ => 0
  ps := fun _ => 0
  pos := fun _ => 0
  gseq := firstPosition cap
  pseq := firstPosition cap

/-- A port at rest has nothing to agree with. -/
theorem portAt_of_idle {u : Unwrapped} {i : Nat} {p : Port} (hpc : p.pc = .idle) : PortAt u s i p := by
  constructor <;> simp [hpc, labelExists, Port.holding]

/-- A legal reset meets the protocol invariant with nothing reserved: every slot is WRITABLE for the first position that
maps to it (rules R40, R116, R117). -/
theorem FreshFor.protocolAt (h : FreshFor r s) (hr : r.toNat ≤ 0x80000000) : ProtocolAt (freshCounts s.cap) s := by
  have idle : ∀ (i : Nat) (p : Port), s.ports[i]? = some p → Port.holding p = false := fun i p hp => by
    simp [Port.holding, h.idle p (List.mem_of_getElem? hp)]
  have put : ∀ q, ¬ (freshCounts s.cap).heldPut s q := fun q ⟨i, p, hp, hq⟩ => not_holdsPut (idle i p hp) i q hq
  have get : ∀ q, ¬ (freshCounts s.cap).heldGet s q := fun q ⟨i, p, hp, hq⟩ => not_holdsGet (idle i p hp) i q hq
  refine ⟨h.cfgErr.trans (resetCfgErr_legal hr), ?_, by rw [h.slots]; rfl, ⟨h.putc, h.getc⟩,
    ⟨le_refl 0, Nat.zero_le _⟩, fun i p hp => portAt_of_idle (h.idle p (List.mem_of_getElem? hp)),
    fun i j p _ hp _ _ q hq => absurd hq (not_holdsPut (idle i p hp) i q),
    fun i j p _ hp _ _ q hq => absurd hq (not_holdsGet (idle i p hp) i q), fun k hk => ?_⟩
  · rw [h.cap, h.mask]; exact resetCapacity_ok hr
  · obtain ⟨hpos, hle⟩ := firstPosition_bounds hk
    have seq := initialSeq_eq_low s.cap k
    constructor <;> simp only [h.readSlot_eq, Slot.initial_gseq, Slot.initial_pseq, Slot.initial_val, freshCounts]
    case gseqLow => exact seq
    case pseqLow => exact seq
    case residue => exact firstPosition_mod hk
    case gap => exact .inl trivial
    case pseqBound => omega
    case gseqBound => omega
    case putCover => intro q _ _ _; omega
    case getCover => intro q _ _ _; omega
    case putAhead => exact fun q _ hq => absurd hq (put q)
    case getAhead => exact fun q _ hq => absurd hq (get q)
    case filled => exact fun _ hv => absurd rfl hv
    case drained => exact fun hne => absurd rfl hne

end fresh

/-! ### The turn itself -/

/-- Whose turn it is and what turns are to come do not matter to the invariant. -/
theorem ProtocolAt.turnState {u : Unwrapped} {s : State} (h : ProtocolAt u s) (i : Nat) :
    ProtocolAt u (turnState s i) := by
  have environment : ∃ ts f, Machine.turnState s i = { s with sched := ts, freeTurns := f, active := i } := by
    unfold Machine.turnState afterTurn; split <;> exact ⟨_, _, rfl⟩
  obtain ⟨ts, f, e⟩ := environment
  rw [e]
  refine ⟨h.legal, h.capacity, h.memory, h.cursorsLow, h.occupancy, fun j r hr => ?_, h.putApart, h.getApart,
    fun k hk => ?_⟩
  · obtain ⟨h1, h2, h3, h4, h5, h6, h7, h8, h9, h10⟩ := h.ports j r hr
    exact ⟨h1, h2, h3, h4, h5, h6, h7, h8, h9, h10⟩
  · obtain ⟨h1, h2, h3, h4, h5, h6, h7, h8, h9, h10, h11, h12⟩ := h.slots k hk
    exact ⟨h1, h2, h3, h4, h5, h6, h7, h8, h9, h10, h11, h12⟩

/-! ### The steps outside the handshakes -/

section moves

variable {u : Unwrapped} {s t : State} {p p' : Port}

/-- A step that ends an operation, or refuses one, before anything is reserved. -/
theorem protocolAt_becameIdle (h : ProtocolAt u s) (hp : s.ports[s.active]? = some p) (hh : Port.holding p = false)
    (hpc : p'.pc = .idle) : ProtocolAt u (s.setPort p') :=
  protocolAt_outside h hp rfl rfl rfl rfl (fun _ _ => ⟨rfl, rfl, rfl⟩) hh (by simp [Port.holding, hpc])
    (by simp [hpc, labelExists]) (by simp [hpc]) (by simp [hpc]) (by simp [hpc]) (by simp [hpc])

/-- Before the first XFER a consumer's `OUT` is empty (rules R37, R91). -/
theorem PortAt.outItems_nil {i : Nat} (h : PortAt u s i p) (hop : consumerOp p.op = true) (hpc : p.pc ≠ .idle)
    (htaken : Port.taken p = 0) : p.outItems = [] :=
  List.length_eq_zero_iff.mp ((h.items hop hpc).trans htaken)

/-- Issue (rule R91) leaves a port before its snapshot, or at CAPQ, with an empty `OUT`. -/
theorem protocolAt_issued (h : ProtocolAt u s) (hp : s.ports[s.active]? = some p) (hpc : p.pc = .idle)
    (hphase : labelExists p'.op p'.pc = true) (hpc' : p'.pc = .snapG ∨ p'.pc = .capq) (hout : p'.outItems = []) :
    ProtocolAt u (s.setPort p') := by
  refine protocolAt_outside h hp rfl rfl rfl rfl (fun _ _ => ⟨rfl, rfl, rfl⟩) (by simp [Port.holding, hpc]) ?_ hphase
    ?_ ?_ ?_ (fun _ _ => hout) <;> rcases hpc' with hpc' | hpc' <;> simp [Port.holding, hpc']

/-- SNAP_G: `x[gs]` counts what `GETC` counts (rule R119). -/
theorem protocolAt_snappedG (h : ProtocolAt u s) (hp : s.ports[s.active]? = some p) (hpc : p.pc = .snapG)
    (hop : snapshotOp p.op = true) :
    ProtocolAt { u with gs := Function.update u.gs s.active u.getc } (s.setPort { p with gs := s.getc, pc := .snapP }) := by
  have hocc := h.occupancy
  have hC := s.cap.isLt
  refine protocolAt_outside h hp rfl rfl rfl rfl (fun j hj => ⟨Function.update_of_ne hj _ _, rfl, rfl⟩)
    (by simp [Port.holding, hpc]) (by simp [Port.holding]) hop (fun _ => ?_) (by simp) (by simp) fun ho _ => ?_
  · simp only [Function.update_self]
    exact ⟨h.cursorsLow.2, le_refl _, by omega⟩
  · exact (h.ports _ p hp).outItems_nil ho (by simp [hpc]) (by simp [Port.taken, hpc])

/-- SNAP_P of an operation that is admitted: `x[ps]` counts what `PUTC` counts (rules R119, R120). -/
theorem protocolAt_admitted (h : ProtocolAt u s) (hp : s.ports[s.active]? = some p) {n : U32} (hpc : p.pc = .snapP)
    (hop : producerOp p.op = true ∨ consumerOp p.op = true)
    (hn : admissionOk s.cap { p.snapshot s with n := n, pc := .reserve }) :
    ProtocolAt { u with ps := Function.update u.ps s.active u.putc }
      (s.setPort { p.snapshot s with n := n, pc := .reserve }) := by
  obtain ⟨hgs, hle, hwin⟩ := (h.ports _ p hp).snapshotG (.inl hpc)
  have hocc := h.occupancy
  refine protocolAt_outside h hp rfl rfl rfl rfl (fun j hj => ⟨rfl, Function.update_of_ne hj _ _, rfl⟩)
    (by simp [Port.holding, hpc]) (by simp [Port.holding]) (by simpa [labelExists] using hop)
    (fun _ => ⟨hgs, hle, hwin⟩) (fun _ => ?_) (fun _ => ⟨rfl, hn⟩) fun ho _ => ?_
  · simp only [Function.update_self]
    exact ⟨h.cursorsLow.1, by omega, le_refl _⟩
  · exact (h.ports _ p hp).outItems_nil ho (by simp [hpc]) (by simp [Port.taken, hpc])

/-! ### The polls and the read of a handshake -/

/-- POLL_G (rule R121): a sample that equals `x[pos]` is of that position's lap. -/
theorem protocolAt_polledG (h : ProtocolAt u s) (hp : s.ports[s.active]? = some p) (hpc : p.pc = .pollG) :
    ProtocolAt u (s.setPort
      { p with sg := (readSlot s.cap s.slots (slotIndex s.mask p.pos)).gseq, pc := .pollP }) := by
  have hP := h.ports _ p hp
  have hh : Port.holding p = true := by simp [Port.holding, hpc]
  rw [h.slotIndex_pos hp hh]
  refine protocolAt_inside h hp (by simpa [labelExists] using family_of_holding hP.phase hh) hh (by simp [Port.holding])
    (by simp [hpc]) rfl rfl rfl rfl (fun ho => ?_) (.of_polling (by simp [Port.inSlot]) fun _ hsg => h.gseq_eq hp hh hsg)
  simpa [Port.taken, hpc] using hP.items ho (by simp [hpc])

/-- What a slot agrees with when a producer's poll succeeds: both counters at `x[pos]`, and no item (rules R44(f), R112). -/
theorem ProtocolAt.writable_of_poll (h : ProtocolAt u s) (hp : s.ports[s.active]? = some p) (hpc : p.pc = .pollP)
    (hop : producerOp p.op = true) (hsg : p.sg = p.pos)
    (hsp : (readSlot s.cap s.slots (u.pos s.active % s.cap.toNat)).pseq = p.pos) :
    u.gseq (u.pos s.active % s.cap.toNat) = u.pos s.active ∧ u.pseq (u.pos s.active % s.cap.toNat) = u.pos s.active ∧
      (readSlot s.cap s.slots (u.pos s.active % s.cap.toNat)).val = none := by
  have hP := h.ports _ p hp
  have hh : Port.holding p = true := by simp [Port.holding, hpc]
  have H := h.slots _ (h.slot_lt (u.pos s.active))
  have hg := (hP.handshake hh).polled hpc hsg
  have hw := H.pseq_eq h.capacity (by rw [hg, hsp, (hP.position hh).1])
  refine ⟨hg, hw.trans hg, Option.not_isSome_iff_eq_none.mp fun hv => ?_⟩
  obtain ⟨i, r, hr, ho, hrpc, hpos⟩ := H.filled hw (Option.isSome_iff_ne_none.mp hv)
  have hi : i ≠ s.active := by rintro rfl; rw [hp] at hr; cases hr; rw [hpc] at hrpc; cases hrpc
  exact h.put_pos_ne hp hr hi hop ho hh (by simp [Port.holding, hrpc]) (hpos.trans hg)

/-- What a slot agrees with when a consumer's poll succeeds: `PSEQ` a lap ahead of `GSEQ` at `x[pos]`, and an item (rules
R44(f), R113). -/
theorem ProtocolAt.readable_of_poll (h : ProtocolAt u s) (hp : s.ports[s.active]? = some p) (hpc : p.pc = .pollP)
    (hop : consumerOp p.op = true) (hsg : p.sg = p.pos)
    (hsp : (readSlot s.cap s.slots (u.pos s.active % s.cap.toNat)).pseq = add32 p.pos s.cap) :
    u.gseq (u.pos s.active % s.cap.toNat) = u.pos s.active ∧
      u.pseq (u.pos s.active % s.cap.toNat) = u.pos s.active + s.cap.toNat ∧
      (readSlot s.cap s.slots (u.pos s.active % s.cap.toNat)).val ≠ none := by
  have hP := h.ports _ p hp
  have hh : Port.holding p = true := by simp [Port.holding, hpc]
  have hC := capacity_pos h.capacity
  have H := h.slots _ (h.slot_lt (u.pos s.active))
  have hg := (hP.handshake hh).polled hpc hsg
  have hw := H.pseq_eq_add h.capacity (by rw [hg, hsp, (hP.position hh).1])
  refine ⟨hg, by rw [hw, hg], fun hv => ?_⟩
  obtain ⟨i, r, hr, ho, hrpc, hpos⟩ := H.drained (by omega) hv
  have hi : i ≠ s.active := by rintro rfl; rw [hp] at hr; cases hr; rw [hpc] at hrpc; cases hrpc
  exact h.get_pos_ne hp hr hi hop ho hh (by simp [Port.holding, hrpc]) (hpos.trans hg)

/-- POLL_P of a producer (rule R121). -/
theorem protocolAt_polledForWrite (h : ProtocolAt u s) (hp : s.ports[s.active]? = some p) (hpc : p.pc = .pollP)
    (hop : producerOp p.op = true) :
    ProtocolAt u (s.setPort
      { p with
        sp := (readSlot s.cap s.slots (slotIndex s.mask p.pos)).pseq
        pc := if polledForWrite p.pos p.sg (readSlot s.cap s.slots (slotIndex s.mask p.pos)).pseq
          then .xfer else .pollG }) := by
  have hh : Port.holding p = true := by simp [Port.holding, hpc]
  have nc := consumerOp_of_producerOp hop
  rw [h.slotIndex_pos hp hh]
  split
  · rename_i hok
    simp only [polledForWrite, Bool.and_eq_true, decide_eq_true_eq] at hok
    obtain ⟨hg, hw, hv⟩ := h.writable_of_poll hp hpc hop (hok.2.trans hok.1) hok.1
    refine protocolAt_inside h hp (by simp [labelExists, hop]) hh (by simp [Port.holding]) (by simp [hpc]) rfl rfl rfl rfl
      (by simp [nc]) ?_
    constructor <;> simp [nc, hg, hw, hv]
  · exact protocolAt_inside h hp (by simp [labelExists, hop]) hh (by simp [Port.holding]) (by simp [hpc]) rfl rfl rfl rfl
      (by simp [nc]) (.of_polling (by simp [Port.inSlot]) (by simp))

/-- POLL_P of a consumer (rule R121). -/
theorem protocolAt_polledForRead (h : ProtocolAt u s) (hp : s.ports[s.active]? = some p) (hpc : p.pc = .pollP)
    (hop : consumerOp p.op = true) :
    ProtocolAt u (s.setPort
      { p with
        sp := (readSlot s.cap s.slots (slotIndex s.mask p.pos)).pseq
        pc := if polledForRead s.cap p.pos p.sg (readSlot s.cap s.slots (slotIndex s.mask p.pos)).pseq
          then .xfer else .pollG }) := by
  have hh : Port.holding p = true := by simp [Port.holding, hpc]
  have np := producerOp_of_consumerOp hop
  have items := (h.ports _ p hp).items hop (by simp [hpc])
  simp only [Port.taken, hpc] at items
  rw [h.slotIndex_pos hp hh]
  split
  · rename_i hok
    simp only [polledForRead, Bool.and_eq_true, decide_eq_true_eq] at hok
    obtain ⟨hg, hw, hv⟩ := h.readable_of_poll hp hpc hop hok.1 hok.2
    refine protocolAt_inside h hp (by simp [labelExists, hop]) hh (by simp [Port.holding]) (by simp [hpc]) rfl rfl rfl rfl
      (fun _ => items) ?_
    constructor <;> simp [np, hg, hw, hv]
  · exact protocolAt_inside h hp (by simp [labelExists, hop]) hh (by simp [Port.holding]) (by simp [hpc]) rfl rfl rfl rfl
      (fun _ => items) (.of_polling (by simp [Port.inSlot]) (by simp))

/-- At XFER a GET has an empty `OUT`, so that both consumers append the slot's item to it (rules R37, R124). -/
theorem PortAt.before_eq_outItems {i : Nat} {before : List Item} (h : PortAt u s i p) (hpc : p.pc = .xfer)
    (hop : (p.op = 0x03#8 ∧ before = []) ∨ (p.op = 0x04#8 ∧ before = p.outItems)) : before = p.outItems := by
  rcases hop with ⟨hop, rfl⟩ | ⟨-, rfl⟩
  · exact (h.outItems_nil (by simp [consumerOp, hop]) (by simp [hpc]) (by simp [Port.taken, hpc, hop])).symm
  · rfl

/-- XFER of a consumer (rule R124). -/
theorem protocolAt_taken (h : ProtocolAt u s) (hp : s.ports[s.active]? = some p) {before : List Item} {d : Item}
    (hpc : p.pc = .xfer) (hop : (p.op = 0x03#8 ∧ before = []) ∨ (p.op = 0x04#8 ∧ before = p.outItems))
    (hd : (readSlot s.cap s.slots (slotIndex s.mask p.pos)).val = some d) :
    ProtocolAt u (s.setPort { p with outItems := before ++ [d], pc := .clear }) := by
  have hP := h.ports _ p hp
  have hh : Port.holding p = true := by simp [Port.holding, hpc]
  have ho := consumerOp_of_cases hop
  have np := producerOp_of_consumerOp ho
  obtain rfl := hP.before_eq_outItems hpc hop
  have items := hP.items ho (by simp [hpc])
  simp only [Port.taken, hpc] at items
  rw [h.slotIndex_pos hp hh] at hd
  obtain ⟨hg, hw⟩ := (hP.handshake hh).get ho (.inl hpc)
  refine protocolAt_inside h hp (by simpa [labelExists] using ho) hh (by simp [Port.holding]) (by simp [hpc]) rfl rfl rfl rfl
    (fun _ => by simp [Port.taken, items]) ?_
  constructor <;> simp [np, hg, hw, hd]

/-! ### PUBLISH -/

/-- The next item of a batch leaves one position fewer to finish (rules R111, R123, R124). -/
theorem remaining_nextItem (hk : p.k.toNat + 1 < p.n.toNat) (hop : p.op = 0x02#8 ∨ p.op = 0x04#8) :
    Port.remaining p = Port.remaining p.nextItem + 1 := by
  have hn := p.n.isLt
  have hk' : (add32 p.k 1#32).toNat = p.k.toNat + 1 := add32_toNat (by simp; omega)
  rcases hop with hop | hop <;> simp [Port.remaining, hop, hk'] <;> omega

/-- And the batch goes on below its count. -/
theorem nextItem_k_lt (hk : p.k.toNat + 1 < p.n.toNat) : p.nextItem.k.toNat < p.nextItem.n.toNat := by
  have hn := p.n.isLt
  rw [Port.nextItem_k, Port.nextItem_n, add32_toNat (by simp; omega)]
  simpa using hk

/-- The last item of an operation is at the last position it holds. -/
theorem PortAt.remaining_of_last {i : Nat} (h : PortAt u s i p) (hh : Port.holding p = true)
    (hlast : p.op = 0x02#8 ∨ p.op = 0x04#8 → ¬ p.k.toNat + 1 < p.n.toNat) : Port.remaining p = 1 := by
  unfold Port.remaining
  split
  · rename_i hop
    have hop : p.op = 0x02#8 ∨ p.op = 0x04#8 := by simpa using hop
    have := h.batch hh hop
    have := hlast hop
    omega
  · rfl

/-- PUBLISH of PUTB before its last item. -/
theorem protocolAt_publishedNext (h : ProtocolAt u s) (hp : s.ports[s.active]? = some p) (hpc : p.pc = .publish)
    (hop : p.op = 0x02#8) (hk : p.k.toNat + 1 < p.n.toNat) :
    ProtocolAt
      { u with
        pseq := Function.update u.pseq (u.pos s.active % s.cap.toNat) (u.pos s.active + s.cap.toNat)
        pos := Function.update u.pos s.active (u.pos s.active + 1) }
      ((s.setSlot (slotIndex s.mask p.pos)
        ((readSlot s.cap s.slots (slotIndex s.mask p.pos)).addPseq s.cap)).setPort p.nextItem) := by
  have hP := h.ports _ p hp
  have hh : Port.holding p = true := by simp [Port.holding, hpc]
  have hh' : Port.holding p.nextItem = true := rfl
  have ho : producerOp p.op = true := by simp [producerOp, hop]
  obtain ⟨hpos, hwin⟩ := hP.position hh
  have hres := hP.putReserved hh ho
  have hrem := remaining_nextItem hk (.inl hop)
  refine protocolAt_published h hp hpc ho rfl rfl rfl rfl (fun j hj => ⟨rfl, rfl, Function.update_of_ne hj _ _⟩) rfl
    (.inr ⟨rfl, ?_, ?_, fun _ => nextItem_k_lt hk⟩) (fun q => ?_) fun _ => ?_ <;>
    simp only [Unwrapped.holdsPut, Function.update_self]
  · rw [Port.nextItem_pos, hpos, add32_low]; rfl
  · omega
  · simp only [Port.nextItem_op, ho, hh, hh', true_and]; omega
  · omega

/-- PUBLISH of the last item of a producer. -/
theorem protocolAt_publishedLast (h : ProtocolAt u s) (hp : s.ports[s.active]? = some p) (hpc : p.pc = .publish)
    (hop : producerOp p.op = true) (hlast : p.op = 0x02#8 ∨ p.op = 0x04#8 → ¬ p.k.toNat + 1 < p.n.toNat) (r : Rsp) :
    ProtocolAt
      { u with pseq := Function.update u.pseq (u.pos s.active % s.cap.toNat) (u.pos s.active + s.cap.toNat) }
      ((s.setSlot (slotIndex s.mask p.pos)
        ((readSlot s.cap s.slots (slotIndex s.mask p.pos)).addPseq s.cap)).setPort (p.respond r)) := by
  have hh : Port.holding p = true := by simp [Port.holding, hpc]
  have hh' : Port.holding (p.respond r) = false := rfl
  have hrem := (h.ports _ p hp).remaining_of_last hh hlast
  refine protocolAt_published h hp hpc hop rfl rfl rfl rfl (fun _ _ => ⟨rfl, rfl, rfl⟩) rfl (.inl rfl) (fun q => ?_)
    (by simp [hh'])
  simp only [Unwrapped.holdsPut, hh', hop, hh, hrem, true_and]
  simp only [Bool.false_eq_true, and_false, false_and, false_iff]
  omega

/-- PUBLISH of GETB before its last item. -/
theorem protocolAt_releasedNext (h : ProtocolAt u s) (hp : s.ports[s.active]? = some p) (hpc : p.pc = .publish)
    (hop : p.op = 0x04#8) (hk : p.k.toNat + 1 < p.n.toNat) :
    ProtocolAt
      { u with
        gseq := Function.update u.gseq (u.pos s.active % s.cap.toNat) (u.pos s.active + s.cap.toNat)
        pos := Function.update u.pos s.active (u.pos s.active + 1) }
      ((s.setSlot (slotIndex s.mask p.pos)
        ((readSlot s.cap s.slots (slotIndex s.mask p.pos)).addGseq s.cap)).setPort p.nextItem) := by
  have hP := h.ports _ p hp
  have hh : Port.holding p = true := by simp [Port.holding, hpc]
  have hh' : Port.holding p.nextItem = true := rfl
  have ho : consumerOp p.op = true := by simp [consumerOp, hop]
  obtain ⟨hpos, hwin⟩ := hP.position hh
  have hres := hP.getReserved hh ho
  have hrem := remaining_nextItem hk (.inr hop)
  have hk' : (add32 p.k 1#32).toNat = p.k.toNat + 1 := add32_toNat (by have := p.n.isLt; simp; omega)
  have items := hP.items ho (by simp [hpc])
  simp only [Port.taken, hpc, hop, if_true] at items
  refine protocolAt_released h hp hpc ho rfl rfl rfl rfl (fun j hj => ⟨rfl, rfl, Function.update_of_ne hj _ _⟩) rfl
    (.inr ⟨rfl, ?_, ?_, fun _ => nextItem_k_lt hk, by simp [Port.taken, hop, hk', items]⟩) (fun q => ?_) fun _ => ?_ <;>
    simp only [Unwrapped.holdsGet, Function.update_self]
  · rw [Port.nextItem_pos, hpos, add32_low]; rfl
  · omega
  · simp only [Port.nextItem_op, ho, hh, hh', true_and]; omega
  · omega

/-- PUBLISH of the last item of a consumer. -/
theorem protocolAt_releasedLast (h : ProtocolAt u s) (hp : s.ports[s.active]? = some p) (hpc : p.pc = .publish)
    (hop : consumerOp p.op = true) (hlast : p.op = 0x02#8 ∨ p.op = 0x04#8 → ¬ p.k.toNat + 1 < p.n.toNat) (r : Rsp) :
    ProtocolAt
      { u with gseq := Function.update u.gseq (u.pos s.active % s.cap.toNat) (u.pos s.active + s.cap.toNat) }
      ((s.setSlot (slotIndex s.mask p.pos)
        ((readSlot s.cap s.slots (slotIndex s.mask p.pos)).addGseq s.cap)).setPort (p.respond r)) := by
  have hh : Port.holding p = true := by simp [Port.holding, hpc]
  have hh' : Port.holding (p.respond r) = false := rfl
  have hrem := (h.ports _ p hp).remaining_of_last hh hlast
  refine protocolAt_released h hp hpc hop rfl rfl rfl rfl (fun _ _ => ⟨rfl, rfl, rfl⟩) rfl (.inl rfl) (fun q => ?_)
    (by simp [hh'])
  simp only [Unwrapped.holdsGet, hh', hop, hh, hrem, true_and]
  simp only [Bool.false_eq_true, and_false, false_and, false_iff]
  omega

/-! ### Every move -/

/-- The other ports, not overtaken by a turn that counts the put cursor on by `d`: what they have in use stays less than
2^32 behind it (the proviso of rules R44 and R194; notes/assumptions/23.md). -/
def OthersWindow (u : Unwrapped) (s : State) (d : Nat) : Prop :=
  ∀ j r, j ≠ s.active → s.ports[j]? = some r →
    (r.pc = .snapP ∨ r.pc = .reserve → u.putc + d < u.gs j + 2 ^ 32) ∧
    (Port.holding r = true → u.putc + d < u.pos j + 2 ^ 32)

theorem sub32_self (a : U32) : (sub32 a a).toNat = 0 := by simp [sub32]

/-- `sub32` undoes `add32`. -/
theorem sub32_add32_left (a n : U32) : sub32 (add32 a n) a = n := by simp [sub32, add32]

/-- Every move keeps the protocol invariant, the put reservations it makes counted on. -/
theorem protocolAt_portMove (h : ProtocolAt u s) (hp : s.ports[s.active]? = some p) (hm : PortMove s p t)
    (window : OthersWindow u s (sub32 t.putc s.putc).toNat) :
    ∃ u', ProtocolAt u' t ∧ u'.putc = u.putc + (sub32 t.putc s.putc).toNat := by
  cases hm
  case reservedPut n hpc hop hps =>
    have counted : (sub32 (add32 p.ps n) s.putc) = n := by rw [hps]; exact sub32_add32_left _ _
    simp only [OthersWindow, State.setPort_putc, counted] at window ⊢
    exact ⟨_, protocolAt_reservedPut h hp hpc hop hps window, rfl⟩
  all_goals simp only [raiseIllegal, State.setPort_putc, State.setSlot_putc, sub32_self, Nat.add_zero]
  case refused hpc => exact ⟨_, protocolAt_becameIdle h hp (by simp [Port.holding, hpc]) hpc, rfl⟩
  case issued i hpc _ =>
    refine ⟨u, protocolAt_issued h hp hpc (issued_phase i).1 ?_ rfl, rfl⟩
    dsimp only; split <;> simp
  case snappedG hpc hop => exact ⟨_, protocolAt_snappedG h hp hpc hop, rfl⟩
  case rejected hpc _ => exact ⟨_, protocolAt_becameIdle h hp (by simp [Port.holding, hpc]) rfl, rfl⟩
  case rejectedBatch hpc _ => exact ⟨_, protocolAt_becameIdle h hp (by simp [Port.holding, hpc]) rfl, rfl⟩
  case admitted n hpc hop hn => exact ⟨_, protocolAt_admitted h hp hpc hop hn, rfl⟩
  case answeredOcc hpc _ => exact ⟨_, protocolAt_becameIdle h hp (by simp [Port.holding, hpc]) rfl, rfl⟩
  case answeredStat hpc _ => exact ⟨_, protocolAt_becameIdle h hp (by simp [Port.holding, hpc]) rfl, rfl⟩
  case answeredCap hpc _ => exact ⟨_, protocolAt_becameIdle h hp (by simp [Port.holding, hpc]) rfl, rfl⟩
  case contended hpc _ => exact ⟨_, protocolAt_becameIdle h hp (by simp [Port.holding, hpc]) rfl, rfl⟩
  case reservedGet n hpc hop hgs =>
    have hout := (h.ports _ p hp).outItems_nil (consumerOp_of_cases hop) (by simp [hpc]) (by simp [Port.taken, hpc])
    exact ⟨_, protocolAt_reservedGet h hp hpc hop hgs hout, rfl⟩
  case polledG hpc _ _ => exact ⟨_, protocolAt_polledG h hp hpc, rfl⟩
  case polledForWrite hpc hop _ => exact ⟨_, protocolAt_polledForWrite h hp hpc hop, rfl⟩
  case polledForRead hpc hop _ => exact ⟨_, protocolAt_polledForRead h hp hpc hop, rfl⟩
  case stored k hpc hop _ =>
    exact ⟨_, protocolAt_wroteVal h hp (.inl ⟨hpc, producerOp_of_cases hop, by simp⟩), rfl⟩
  case taken hpc hop _ hd => exact ⟨_, protocolAt_taken h hp hpc hop hd, rfl⟩
  case cleared hpc hop _ => exact ⟨_, protocolAt_wroteVal h hp (.inr ⟨hpc, hop, rfl⟩), rfl⟩
  case publishedNext hpc hop hk _ => exact ⟨_, protocolAt_publishedNext h hp hpc hop hk, rfl⟩
  case publishedLast hpc hop _ =>
    refine ⟨_, protocolAt_publishedLast h hp hpc (producerOp_of_cases hop) ?_ _, rfl⟩
    rcases hop with ⟨hop, -⟩ | ⟨-, -, hk⟩
    · simp [hop]
    · exact fun _ => hk
  case releasedNext hpc hop hk _ => exact ⟨_, protocolAt_releasedNext h hp hpc hop hk, rfl⟩
  case releasedLast hpc hop _ =>
    refine ⟨_, protocolAt_releasedLast h hp hpc (consumerOp_of_cases hop) ?_ _, rfl⟩
    rcases hop with ⟨hop, -⟩ | ⟨-, -, hk⟩
    · simp [hop]
    · exact fun _ => hk

/-- Both ways rule R194 allows give the window: with fewer than 2^32 reservations since reset every count is below 2^32, and
otherwise no port is overtaken. -/
theorem othersWindow_of_proviso (h : ProtocolAt u s)
    (proviso : u.putc + (sub32 t.putc s.putc).toNat < 2 ^ 32 ∨ liveNotOvertaken s t) :
    OthersWindow u s (sub32 t.putc s.putc).toNat := by
  intro j r _ hr
  rcases proviso with hlt | ⟨hsnap, hlive⟩
  · exact ⟨fun _ => by omega, fun _ => by omega⟩
  · have hmem := List.mem_of_getElem? hr
    have hR := h.ports j r hr
    have hocc := h.occupancy
    refine ⟨fun hpc => ?_, fun hh => ?_⟩
    · obtain ⟨hgs, hle, hwin⟩ := hR.snapshotG hpc
      have := hsnap r hmem hpc
      rw [h.cursorsLow.1, hgs, sub32_low (by omega) hwin] at this
      rw [h.cursorsLow.1]; omega
    · obtain ⟨hpos, hwin⟩ := hR.position hh
      have := hlive r hmem hh
      rw [h.cursorsLow.1, hpos, sub32_low (h.pos_le hr hh) hwin] at this
      rw [h.cursorsLow.1]; omega

end moves

end Sys2Proof.Safety
end

section
/-! PROOF. The cursors and the snapshots in use stay in the cyclic order of a 32-bit cursor (rules R26, R44(b), R120): what
is measured from one snapshot measures the occupancy too. -/

namespace Sys2Proof.Safety

open Sys2Proof.Machine

/-! ### Distances on the circle of 2^32 positions -/

/-- From `c` on, `a` comes no later than `b`: the distance from `a` to `b` is what is left. -/
theorem sub32_of_between {a b c : U32} (h : (sub32 a c).toNat ≤ (sub32 b c).toNat) :
    (sub32 b a).toNat = (sub32 b c).toNat - (sub32 a c).toNat := by
  simp only [sub32, BitVec.toNat_sub] at *
  omega

/-- Counting on from `a` without passing `c` again. -/
theorem sub32_add32 {a c n : U32} (h : (sub32 a c).toNat + n.toNat < 2 ^ 32) :
    (sub32 (add32 a n) c).toNat = (sub32 a c).toNat + n.toNat := by
  simp only [sub32, add32, BitVec.toNat_sub, BitVec.toNat_add] at *
  omega

/-- The same towards `c`: counting on from `a` brings `c` nearer. -/
theorem sub32_add32_right {a c n : U32} (h : n.toNat ≤ (sub32 c a).toNat) :
    (sub32 c (add32 a n)).toNat = (sub32 c a).toNat - n.toNat := by
  simp only [sub32, add32, BitVec.toNat_sub, BitVec.toNat_add] at *
  omega

section cursors

variable {s t : State} {p p' : Port}

/-- A reset leaves both cursors 0 and no snapshot in use (rules R40, R41). -/
theorem FreshFor.cursorsOk {r : U32} (h : FreshFor r s) : CursorsOk s := by
  refine ⟨by rw [h.putc, h.getc, sub32_self]; exact Nat.zero_le _, fun p hp hpc => ?_, fun p hp hpc => ?_⟩ <;>
    simp [h.idle p hp] at hpc

/-- Whose turn it is does not matter. -/
theorem CursorsOk.turnState (h : CursorsOk s) (i : Nat) : CursorsOk (turnState s i) := by
  obtain ⟨h1, h2, h3⟩ := h
  refine ⟨?_, ?_, ?_⟩ <;> simpa

/-- The count a producer is admitted with fits what is free when its CAS succeeds, `PUTC` being its `x[ps]` (rules R118,
R130(d), R131). -/
theorem CursorsOk.room_of_producer {n : U32} (h : CursorsOk s) (hp : p ∈ s.ports) (hpc : p.pc = .reserve)
    (hop : (p.op = 0x01#8 ∧ n = 1#32) ∨ (p.op = 0x02#8 ∧ n = p.n)) (hps : s.putc = p.ps) :
    (sub32 s.putc s.getc).toNat + n.toNat ≤ s.cap.toNat := by
  obtain ⟨-, hocc, hput, hputb, -, -⟩ := h.admitted p hp hpc
  have hest := est_toNat s.cap p.gs p.ps
  have hdist := sub32_of_between (h.snapshots p hp (.inr hpc))
  rw [← hocc, ← hps] at hest
  rcases hop with ⟨hop, rfl⟩ | ⟨hop, rfl⟩
  · have := hput hop; simp only [BitVec.toNat_ofNat]; omega
  · have := hputb hop; omega

/-- The count a consumer is admitted with fits what is waiting when its CAS succeeds, `GETC` being its `x[gs]` (rules R118,
R140, R141). -/
theorem CursorsOk.waiting_of_consumer {n : U32} (h : CursorsOk s) (hp : p ∈ s.ports) (hpc : p.pc = .reserve)
    (hop : (p.op = 0x03#8 ∧ n = 1#32) ∨ (p.op = 0x04#8 ∧ n = p.n)) (hgs : s.getc = p.gs) :
    n.toNat ≤ (sub32 s.putc s.getc).toNat := by
  obtain ⟨hle, hocc, -, -, hget, hgetb⟩ := h.admitted p hp hpc
  have hest := est_toNat s.cap p.gs p.ps
  rw [← hocc] at hest
  rw [hgs]
  rcases hop with ⟨hop, rfl⟩ | ⟨hop, rfl⟩
  · have := hget hop; simp only [BitVec.toNat_ofNat]; omega
  · have := hgetb hop; omega

/-- A move that leaves the cursors alone, from what it shows of its own port. -/
theorem cursorsOk_of_own (h : CursorsOk s)
    (hsnap : p'.pc = .snapP ∨ p'.pc = .reserve → (sub32 s.getc p'.gs).toNat ≤ (sub32 s.putc p'.gs).toNat)
    (hadm : p'.pc = .reserve → (sub32 p'.ps p'.gs).toNat ≤ (sub32 s.putc p'.gs).toNat ∧
      p'.occ = est s.cap p'.gs p'.ps ∧ admissionOk s.cap p')
    (ht : t.ports = s.ports.set s.active p') (hcap : t.cap = s.cap) (hput : t.putc = s.putc) (hget : t.getc = s.getc) :
    CursorsOk t := by
  refine ⟨by rw [hcap, hput, hget]; exact h.occupancy, ?_, ?_⟩ <;> simp only [hcap, hput, hget]
  · exact forall_ports_set ht h.snapshots hsnap
  · exact forall_ports_set ht h.admitted hadm

/-- A move to a phase that has no snapshot in use. -/
theorem cursorsOk_of_unused (h : CursorsOk s) (hpc : p'.pc ≠ .snapP ∧ p'.pc ≠ .reserve)
    (ht : t.ports = s.ports.set s.active p') (hcap : t.cap = s.cap) (hput : t.putc = s.putc) (hget : t.getc = s.getc) :
    CursorsOk t :=
  cursorsOk_of_own h (fun e => absurd e (by tauto)) (absurd · hpc.2) ht hcap hput hget

/-- A successful CAS on `PUTC`, no port with a snapshot in use being overtaken by it. -/
theorem cursorsOk_reservedPut {n : U32} (h : CursorsOk s) (hp : p ∈ s.ports) (hpc : p.pc = .reserve)
    (hop : (p.op = 0x01#8 ∧ n = 1#32) ∨ (p.op = 0x02#8 ∧ n = p.n)) (hps : s.putc = p.ps)
    (proviso : ∀ r ∈ s.ports, r.pc = .snapP ∨ r.pc = .reserve → (sub32 s.putc r.gs).toNat + n.toNat < 2 ^ 32) :
    CursorsOk (State.setPort { s with putc := add32 p.ps n } (p.reserved p.ps)) := by
  have room := h.room_of_producer hp hpc hop hps
  have hC := s.cap.isLt
  rw [← hps]
  refine ⟨?_, forall_ports_set rfl (fun r hr hrpc => ?_) (by simp),
    forall_ports_set rfl (fun r hr hrpc => ?_) (by simp)⟩ <;>
    simp only [State.setPort_putc, State.setPort_getc, State.setPort_cap]
  · rw [sub32_add32 (by omega)]; exact room
  · rw [sub32_add32 (proviso r hr hrpc)]
    have := h.snapshots r hr hrpc; omega
  · rw [sub32_add32 (proviso r hr (.inr hrpc))]
    obtain ⟨hle, hocc, hadm⟩ := h.admitted r hr hrpc
    exact ⟨by omega, hocc, hadm⟩

/-- A successful CAS on `GETC`: what it takes lies before `PUTC`, seen from any snapshot. -/
theorem cursorsOk_reservedGet {n : U32} (h : CursorsOk s) (hp : p ∈ s.ports) (hpc : p.pc = .reserve)
    (hop : (p.op = 0x03#8 ∧ n = 1#32) ∨ (p.op = 0x04#8 ∧ n = p.n)) (hgs : s.getc = p.gs) :
    CursorsOk (State.setPort { s with getc := add32 p.gs n } (p.reserved p.gs)) := by
  have waiting := h.waiting_of_consumer hp hpc hop hgs
  have hocc := h.occupancy
  rw [← hgs]
  refine ⟨?_, forall_ports_set rfl (fun r hr hrpc => ?_) (by simp), forall_ports_set rfl (fun r hr => ?_) (by simp)⟩ <;>
    simp only [State.setPort_putc, State.setPort_getc, State.setPort_cap]
  · rw [sub32_add32_right waiting]; omega
  · have hle := h.snapshots r hr hrpc
    have hdist := sub32_of_between hle
    have hlt := (sub32 s.putc r.gs).isLt
    rw [sub32_add32 (by omega)]; omega
  · exact h.admitted r hr

/-- Every move keeps the order, under the proviso. -/
theorem cursorsOk_portMove (h : CursorsOk s) (hp : p ∈ s.ports) (hm : PortMove s p t) (proviso : notOvertaken s t) :
    CursorsOk t := by
  cases hm
  case issued =>
    refine cursorsOk_of_unused h ?_ rfl rfl rfl rfl
    dsimp only; split <;> simp
  case snappedG =>
    exact cursorsOk_of_own h (fun _ => by rw [sub32_self]; exact Nat.zero_le _) (by simp) rfl rfl rfl rfl
  case admitted hpc _ hn =>
    refine cursorsOk_of_own h ?_ ?_ rfl rfl rfl rfl
    · exact fun _ => h.snapshots p hp (.inl hpc)
    · exact fun _ => ⟨le_refl _, rfl, hn⟩
  case reservedPut n hpc hop hps =>
    refine cursorsOk_reservedPut h hp hpc hop hps fun r hr hrpc => ?_
    have := proviso r hr hrpc
    rwa [State.setPort_putc, hps, sub32_add32_left, ← hps] at this
  case reservedGet hpc hop hgs => exact cursorsOk_reservedGet h hp hpc hop hgs
  case polledForWrite =>
    refine cursorsOk_of_unused h ?_ rfl rfl rfl rfl
    dsimp only; split <;> simp
  case polledForRead =>
    refine cursorsOk_of_unused h ?_ rfl rfl rfl rfl
    dsimp only; split <;> simp
  case refused hpc => exact cursorsOk_of_unused h (by simp [hpc]) rfl rfl rfl rfl
  all_goals exact cursorsOk_of_unused h (by simp) rfl rfl rfl rfl

end cursors

end Sys2Proof.Safety
end

section
/-! PROOF. The cursor order and the protocol invariant through every turn, settled (rules R26, R44, R194). -/

namespace Sys2Proof.Proofs

open Sys2Proof.Machine Sys2Proof.Safety

/-- Settles O45: a reset leaves both cursors 0, a waiting turn changes nothing, and each move keeps the order. -/
theorem cursorsKept : Obligations.CursorsKept := by
  intro s t hs proviso h
  rcases step_next h with ⟨req, -, rfl⟩ | ⟨i, p, -, -, -, -, rfl⟩ | ⟨i, p, hn, hp, hm⟩
  · exact (freshFor_resetEvent req _).cursorsOk
  · exact hs.turnState i
  · have hover : notOvertaken s t := proviso.resolve_left fun ⟨r, hr⟩ => by rw [hn] at hr; cases hr
    exact cursorsOk_portMove (hs.turnState i) (by simpa using List.mem_of_getElem? hp) hm
      (by simpa [notOvertaken] using hover)

/-- Settles O46: the counts go through every move, and a legal reset starts them again. -/
theorem protocolKept : Obligations.ProtocolKept := by
  rintro m s t ⟨u, rfl, hu⟩ h
  refine ⟨fun i hn proviso => ?_, fun r hn hr => ?_⟩
  · rcases step_next h with ⟨req, hr, -⟩ | ⟨i', p, -, -, -, -, rfl⟩ | ⟨i', p, -, hp, hm⟩
    · rw [hn] at hr; cases hr
    · exact ⟨u, by simp [sub32_self], hu.turnState i'⟩
    · have window := othersWindow_of_proviso (t := t) (hu.turnState i')
        (by simpa [liveNotOvertaken, notOvertaken] using proviso)
      obtain ⟨u', hu', hput⟩ := protocolAt_portMove (hu.turnState i') (by simpa using hp) hm window
      exact ⟨u', by simpa using hput, hu'⟩
  · rcases step_next h with ⟨req, hreq, rfl⟩ | ⟨i, p, hi, -⟩ | ⟨i, p, hi, -⟩
    · rw [hn] at hreq; cases hreq
      exact ⟨_, rfl, (freshFor_resetEvent r _).protocolAt hr⟩
    · rw [hn] at hi; cases hi
    · rw [hn] at hi; cases hi

end Sys2Proof.Proofs
end

section
/-! PROOF. The slots through a move, field by field (rules R29 to R31), the configuration and the residue classes of the
counters (rules R21 to R23, R44(a), (c)). -/

namespace Sys2Proof.Safety

open Sys2Proof.Machine

/-! ### The slots through a move -/

section slots

variable {s t : State} {p : Port} {v : Slot}

/-- Only a producer's PUBLISH moves `PSEQ` (rules R29, R114). -/
theorem SlotWrite.pseq (h : SlotWrite s p v) : v.pseq = (slotOf s p.pos).pseq ∨
    (p.pc = .publish ∧ producerOp p.op = true ∧ v.pseq = add32 (slotOf s p.pos).pseq s.cap) := by
  cases h with
  | stored => exact .inl rfl
  | cleared => exact .inl rfl
  | published hpc hop => exact .inr ⟨hpc, hop, rfl⟩
  | released => exact .inl rfl

/-- Only a consumer's PUBLISH moves `GSEQ` (rules R30, R115). -/
theorem SlotWrite.gseq (h : SlotWrite s p v) : v.gseq = (slotOf s p.pos).gseq ∨
    (p.pc = .publish ∧ consumerOp p.op = true ∧ v.gseq = add32 (slotOf s p.pos).gseq s.cap) := by
  cases h with
  | stored => exact .inl rfl
  | cleared => exact .inl rfl
  | published => exact .inl rfl
  | released hpc hop => exact .inr ⟨hpc, hop, rfl⟩

/-- Only a producer's XFER fills `VAL`, and only a consumer's CLEAR empties it (rules R31, R123, R124). -/
theorem SlotWrite.val (h : SlotWrite s p v) : v.val = (slotOf s p.pos).val ∨
    (p.pc = .xfer ∧ producerOp p.op = true ∧ v.val ≠ none) ∨
    (p.pc = .clear ∧ consumerOp p.op = true ∧ v.val = none) := by
  cases h with
  | stored k hpc hop => exact .inr (.inl ⟨hpc, producerOp_of_cases hop, by simp⟩)
  | cleared hpc hop => exact .inr (.inr ⟨hpc, hop, rfl⟩)
  | published => exact .inl rfl
  | released => exact .inl rfl

variable (hm : Memory.wf s.cap s.slots = true) (h : PortMove s p t) (k : Nat)
include hm h

/-- Outside those steps, and in every other slot, a move writes nothing. -/
theorem portMove_otherSlots (hk : ¬ (Port.writesSlot p ∧ k = slotIndex s.mask p.pos)) :
    readSlot t.cap t.slots k = readSlot s.cap s.slots k := by
  rcases portMove_readSlot hm h with ⟨-, ht⟩ | ⟨v, hv, -, ht⟩
  · exact ht k
  · rw [ht, if_neg fun hk' => hk ⟨hv.writesSlot, hk'⟩]

theorem portMove_pseq : (readSlot t.cap t.slots k).pseq = (readSlot s.cap s.slots k).pseq ∨
    (p.pc = .publish ∧ producerOp p.op = true ∧ k = slotIndex s.mask p.pos ∧
      (readSlot t.cap t.slots k).pseq = add32 (readSlot s.cap s.slots k).pseq s.cap) := by
  rcases portMove_readSlot hm h with ⟨-, ht⟩ | ⟨v, hv, -, ht⟩ <;> rw [ht]
  · exact .inl rfl
  · split
    · rename_i hk; subst hk
      exact hv.pseq.imp_right fun ⟨hpc, hop, e⟩ => ⟨hpc, hop, rfl, e⟩
    · exact .inl rfl

theorem portMove_gseq : (readSlot t.cap t.slots k).gseq = (readSlot s.cap s.slots k).gseq ∨
    (p.pc = .publish ∧ consumerOp p.op = true ∧ k = slotIndex s.mask p.pos ∧
      (readSlot t.cap t.slots k).gseq = add32 (readSlot s.cap s.slots k).gseq s.cap) := by
  rcases portMove_readSlot hm h with ⟨-, ht⟩ | ⟨v, hv, -, ht⟩ <;> rw [ht]
  · exact .inl rfl
  · split
    · rename_i hk; subst hk
      exact hv.gseq.imp_right fun ⟨hpc, hop, e⟩ => ⟨hpc, hop, rfl, e⟩
    · exact .inl rfl

theorem portMove_val : (readSlot t.cap t.slots k).val = (readSlot s.cap s.slots k).val ∨
    (p.pc = .xfer ∧ producerOp p.op = true ∧ k = slotIndex s.mask p.pos ∧ (readSlot t.cap t.slots k).val ≠ none) ∨
    (p.pc = .clear ∧ consumerOp p.op = true ∧ k = slotIndex s.mask p.pos ∧ (readSlot t.cap t.slots k).val = none) := by
  rcases portMove_readSlot hm h with ⟨-, ht⟩ | ⟨v, hv, -, ht⟩ <;> rw [ht]
  · exact .inl rfl
  · split
    · rename_i hk; subst hk
      exact hv.val.imp_right
        (.imp (fun ⟨hpc, hop, e⟩ => ⟨hpc, hop, rfl, e⟩) fun ⟨hpc, hop, e⟩ => ⟨hpc, hop, rfl, e⟩)
    · exact .inl rfl

end slots

/-! ### The configuration -/

/-- Whose turn it is does not matter. -/
theorem configOk_turnState {s : State} (i : Nat) : configOk (turnState s i) ↔ configOk s := by
  simp [configOk, final]

/-- A block that refused its construction answers every word as illegal (rule R42). -/
theorem portMove_of_refused {s t : State} {p : Port} (h : PortMove s p t) (hpc : p.pc = .idle) (hc : s.cfgErr = true) :
    t = raiseIllegal s p := by
  cases h
  case refused => rfl
  case issued hc' => rw [hc] at hc'; cases hc'
  all_goals simp_all

/-- A move keeps a legal configuration and a refused one (rules R42, R43). -/
theorem portMove_configOk {s t : State} {p : Port} (hs : configOk s) (hp : p ∈ s.ports) (h : PortMove s p t) :
    configOk t := by
  obtain ⟨hcap, hmask, hcfg⟩ := portMove_config h
  rcases hs with ⟨hc, hok⟩ | ⟨hc, hcap0, hmask0, hput, hget, hslots, hidle⟩
  · exact .inl ⟨hcfg.trans hc, by rw [hcap, hmask]; exact hok⟩
  · obtain rfl := portMove_of_refused h (hidle p hp) hc
    exact .inr ⟨hc, hcap0, hmask0, hput, hget, hslots, forall_ports_set rfl hidle (hidle p hp)⟩

/-! ### Residue classes -/

/-- `CAP` further on is the same slot, across 2^32 too (rule R122(b)). -/
theorem slotIndex_add_cap {cap mask : U32} (h : capacityOk cap mask) (pos : U32) :
    slotIndex mask (add32 pos cap) = slotIndex mask pos := by
  have e : pos = low pos.toNat := by simp [low]
  rw [e, add32_low, slotIndex_low h, slotIndex_low h, Nat.add_mod_right]

/-- The counters start in the residue class of their slot. -/
theorem FreshFor.residuesOk {r : U32} {s : State} (h : FreshFor r s) : residuesOk s := by
  intro k hk
  have hok : capacityOk s.cap s.mask := by
    rcases h.configOk with ⟨-, hok⟩ | ⟨-, hcap, -⟩
    · exact hok
    · rw [hcap] at hk; exact absurd hk (Nat.not_lt_zero k)
  simp only [h.readSlot_eq, Slot.initial_pseq, Slot.initial_gseq, initialSeq_eq_low, slotIndex_low hok,
    firstPosition_mod hk, and_self]

/-- Each PUBLISH takes a counter to the next position of its slot's class. -/
theorem portMove_residuesOk {s t : State} {p : Port} (hs : configOk s) (hm : Memory.wf s.cap s.slots = true)
    (hres : residuesOk s) (h : PortMove s p t) : residuesOk t := by
  obtain ⟨hcap, hmask, -⟩ := portMove_config h
  intro k hk
  rw [hcap] at hk
  have hok : capacityOk s.cap s.mask := by
    rcases hs with ⟨-, hok⟩ | ⟨-, hcap0, -⟩
    · exact hok
    · rw [hcap0] at hk; exact absurd hk (Nat.not_lt_zero k)
  obtain ⟨hp, hg⟩ := hres k hk
  rw [hmask]
  refine ⟨?_, ?_⟩
  · rcases portMove_pseq hm h k with e | ⟨-, -, -, e⟩ <;> rw [e]
    · exact hp
    · rw [slotIndex_add_cap hok]; exact hp
  · rcases portMove_gseq hm h k with e | ⟨-, -, -, e⟩ <;> rw [e]
    · exact hg
    · rw [slotIndex_add_cap hok]; exact hg

theorem residuesOk_turnState {s : State} (i : Nat) : residuesOk (turnState s i) ↔ residuesOk s := by
  simp [residuesOk]

/-! ### Slot states (rule R117) -/

/-- Counters that agree: WRITABLE or FILLED. -/
theorem slotState_of_eq {sl : Slot} (cap : U32) (h : sl.pseq = sl.gseq) :
    slotState cap sl = sl.val.elim (.writable sl.gseq) (.filled sl.gseq) := by
  rw [slotState, if_pos (by simp [sub32, h])]
  cases sl.val <;> rfl

/-- `PSEQ` a lap ahead: DRAINED or READABLE. -/
theorem slotState_of_lap {sl : Slot} {cap : U32} (hcap : 1 ≤ cap.toNat) (h : sl.pseq = add32 sl.gseq cap) :
    slotState cap sl = sl.val.elim (.drained sl.gseq) (.readable sl.gseq) := by
  have hdist : sub32 sl.pseq sl.gseq = cap := by rw [h, sub32_add32_left]
  have hne : cap ≠ 0#32 := by rintro rfl; simp at hcap
  rw [slotState, hdist, if_neg hne, if_pos rfl]
  cases sl.val <;> rfl

/-! ### Positions after reset -/

/-- The position `k` places after a cursor counts on (rule R111). -/
theorem positionAfter_low (c k : Nat) : positionAfter (low c) k = low (c + 1 + k) := by
  apply BitVec.eq_of_toNat_eq
  simp [positionAfter, add32, low]

/-- The first `CAP` positions after reset are the first positions of their slots (rule R116). -/
theorem firstPosition_succ_mod {cap : U32} {k : Nat} (hk : k < cap.toNat) :
    firstPosition cap ((k + 1) % cap.toNat) = k + 1 := by
  rcases Nat.lt_or_ge (k + 1) cap.toNat with h | h
  · rw [Nat.mod_eq_of_lt h]; rfl
  · have e : k + 1 = cap.toNat := by omega
    rw [e, Nat.mod_self]; rfl

/-- After a legal reset the block is empty and at rest (rules R116, R117). -/
theorem FreshFor.quiet {r : U32} {s : State} (h : FreshFor r s) (hr : r.toNat ≤ 0x80000000) : quiet s := by
  have hok : capacityOk s.cap s.mask := by rw [h.cap, h.mask]; exact resetCapacity_ok hr
  refine ⟨h.putc.trans h.getc.symm, fun k hk => ?_⟩
  have hpos : positionAfter s.putc k = low (k + 1) := by
    rw [h.putc, show (0#32 : U32) = low 0 from rfl, positionAfter_low]; congr 1; omega
  rw [slotOf, h.readSlot_eq, hpos, slotIndex_low hok, Slot.initial, initialSeq_eq_low, firstPosition_succ_mod hk]

end Sys2Proof.Safety
end

section
/-! PROOF. The frames, the configuration, the residue classes and what reset meets, settled (rules R33, R40 to R44). -/

namespace Sys2Proof.Proofs

open Sys2Proof.Machine Sys2Proof.Safety

/-- Settles O33: a query's move replaces its port's record only. -/
theorem queryFrame : Obligations.QueryFrame := by
  intro s t j p p' hj hp h hp'
  obtain ⟨hm, hop⟩ := exec_portMove hp h
  have hquery : p.pc ≠ .idle → p.op = 0x05#8 ∨ p.op = 0x06#8 ∨ p.op = 0x07#8 := fun hpc => by
    rw [hop hpc]; rcases hj with rfl | rfl | rfl <;> simp [Instr.opcode]
  have hrest := portMove_restSame hm
  obtain ⟨q, hq, kept⟩ := portMove_registers hm
  obtain rfl := eq_of_ports_set hp hq hp'
  obtain ⟨q, rfl, regs⟩ := portMove_of_query hm hquery
  obtain rfl := eq_of_ports_set hp rfl hp'
  obtain ⟨hn, hk, hpos, hsg, hsp⟩ := regs
  refine ⟨⟨rfl, rfl, rfl, rfl, rfl, fun _ => rfl⟩, hrest, hn, hk, hpos, hsg, hsp, fun hpc => ?_⟩
  obtain ⟨hop', harg, hin, hcmds⟩ := kept.latched hpc
  have hnot : consumerOp p.op = false := by
    rcases hquery hpc with hop | hop | hop <;> rw [hop] <;> rfl
  exact ⟨hop', harg, hin, kept.outItems hpc (.inr hnot), hcmds⟩

/-- Settles O34, field by field. -/
theorem putFamilyFrame : Obligations.PutFamilyFrame := by
  intro s t j p p' hj hwf hp h hp'
  obtain ⟨hm, hop⟩ := exec_portMove hp h
  have hput : p.pc ≠ .idle → producerOp p.op = true := fun hpc => by
    rw [hop hpc]; rcases hj with rfl | ⟨a, rfl⟩ <;> rfl
  have noGet : p.pc ≠ .idle → consumerOp p.op ≠ true := fun hpc => by simp [consumerOp_of_producerOp (hput hpc)]
  obtain ⟨q, hq, kept⟩ := portMove_registers hm
  obtain rfl := eq_of_ports_set hp hq hp'
  obtain ⟨hcap, hmask, hcfg⟩ := portMove_config hm
  refine ⟨hcap, hmask, hcfg, ?_, portMove_restSame hm, fun hpc => ?_, fun k hk => ?_, fun k => ?_, fun hpc k => ?_,
    fun hpc k => ?_, fun hpc => ?_⟩
  · exact (portMove_getc hm).resolve_right fun ⟨hpc, _, hc⟩ => noGet (by simp [hpc]) (consumerOp_of_cases hc)
  · exact (portMove_putc hm).resolve_right fun ⟨hpc', _⟩ => hpc hpc'
  · refine portMove_otherSlots hwf hm k fun ⟨hpc, hk'⟩ => ?_
    rcases hpc with ⟨hpc, -⟩ | ⟨hpc, hc⟩ | hpc
    · exact hk ⟨.inl hpc, hk'⟩
    · exact noGet (by simp [hpc]) hc
    · exact hk ⟨.inr hpc, hk'⟩
  · exact (portMove_gseq hwf hm k).resolve_right fun ⟨hpc, hc, _⟩ => noGet (by simp [hpc]) hc
  · exact (portMove_pseq hwf hm k).resolve_right fun ⟨hpc', _⟩ => by simp [hpc] at hpc'
  · exact (portMove_val hwf hm k).resolve_right (by simp [hpc])
  · obtain ⟨hop', harg, hin, hcmds⟩ := kept.latched hpc
    exact ⟨hop', harg, hin, kept.outItems hpc (.inr (consumerOp_of_producerOp (hput hpc))), hcmds⟩

/-- Settles O35, field by field. -/
theorem getFamilyFrame : Obligations.GetFamilyFrame := by
  intro s t j p p' hj hwf hp h hp'
  obtain ⟨hm, hop⟩ := exec_portMove hp h
  have hget : p.pc ≠ .idle → consumerOp p.op = true := fun hpc => by
    rw [hop hpc]; rcases hj with rfl | ⟨a, rfl⟩ <;> rfl
  have noPut : p.pc ≠ .idle → producerOp p.op ≠ true := fun hpc => by simp [producerOp_of_consumerOp (hget hpc)]
  obtain ⟨q, hq, kept⟩ := portMove_registers hm
  obtain rfl := eq_of_ports_set hp hq hp'
  obtain ⟨hcap, hmask, hcfg⟩ := portMove_config hm
  refine ⟨hcap, hmask, hcfg, ?_, portMove_restSame hm, fun hpc => ?_, fun k hk => ?_, fun k => ?_, fun hpc k => ?_,
    fun hpc k => ?_, fun hpc => kept.latched hpc, fun hpc hx => kept.outItems hpc (.inl hx)⟩
  · exact (portMove_putc hm).resolve_right fun ⟨hpc, _, hc⟩ => noPut (by simp [hpc]) (producerOp_of_cases hc)
  · exact (portMove_getc hm).resolve_right fun ⟨hpc', _⟩ => hpc hpc'
  · refine portMove_otherSlots hwf hm k fun ⟨hpc, hk'⟩ => ?_
    rcases hpc with ⟨hpc, hc⟩ | ⟨hpc, -⟩ | hpc
    · exact noPut (by simp [hpc]) hc
    · exact hk ⟨.inl hpc, hk'⟩
    · exact hk ⟨.inr hpc, hk'⟩
  · exact (portMove_pseq hwf hm k).resolve_right fun ⟨hpc, hc, _⟩ => noPut (by simp [hpc]) hc
  · exact (portMove_gseq hwf hm k).resolve_right fun ⟨hpc', _⟩ => by simp [hpc] at hpc'
  · exact (portMove_val hwf hm k).resolve_right (by simp [hpc])

/-- Settles O36: the table of `RegistersKept`. -/
theorem registersChangeOnlyInTheirSteps : Obligations.RegistersChangeOnlyInTheirSteps := by
  intro s t j p p' hp h hp'
  obtain ⟨q, hq, kept⟩ := portMove_registers (exec_portMove hp h).1
  obtain rfl := eq_of_ports_set hp hq hp'
  refine ⟨fun hpc => ?_, kept.gs, kept.estimate, kept.position, kept.sg, kept.sp,
    fun hpc hx => kept.outItems hpc (.inl hx), kept.rsp⟩
  obtain ⟨hop, harg, hin, -⟩ := kept.latched hpc
  exact ⟨hop, harg, hin⟩

/-- Settles O39: a waiting turn changes none of it, and a move each part only in its step. -/
theorem onlyResetReconfigures : Obligations.OnlyResetReconfigures := by
  intro s t i p hwf hn hp h
  rcases step_of_turn hn hp h with ⟨-, rfl⟩ | hm
  · simp
  · obtain ⟨hcap, hmask, hcfg⟩ := portMove_config hm
    have hwf' : Memory.wf (turnState s i).cap (turnState s i).slots = true := by simpa using hwf
    refine ⟨by simpa using hcap, by simpa using hmask, by simpa using hcfg, by simpa using portMove_putc hm,
      by simpa using portMove_getc hm, fun k => ⟨?_, ?_, ?_⟩⟩
    · simpa using portMove_pseq hwf' hm k
    · simpa using portMove_gseq hwf' hm k
    · simpa using portMove_val hwf' hm k

/-- Settles O41: a reset configures or refuses the block, and no move changes what it configured. -/
theorem configurationKept : Obligations.ConfigurationKept := by
  intro s t hs h
  rcases step_next h with ⟨req, -, rfl⟩ | ⟨i, p, -, -, -, -, rfl⟩ | ⟨i, p, -, hp, hm⟩
  · exact (freshFor_resetEvent req _).configOk
  · exact (configOk_turnState i).mpr hs
  · exact portMove_configOk ((configOk_turnState i).mpr hs) (by simpa using List.mem_of_getElem? hp) hm

/-- Settles O43: counters start in their slot's class and move by `CAP`. -/
theorem residuesKept : Obligations.ResiduesKept := by
  intro s t hs hwf hres h
  rcases step_next h with ⟨req, -, rfl⟩ | ⟨i, p, -, -, -, -, rfl⟩ | ⟨i, p, -, hp, hm⟩
  · exact (freshFor_resetEvent req _).residuesOk
  · exact (residuesOk_turnState i).mpr hres
  · exact portMove_residuesOk ((configOk_turnState i).mpr hs) (by simpa using hwf) ((residuesOk_turnState i).mpr hres) hm

/-- Settles O47: what a reset leaves, and every port idle with no answer to read. -/
theorem resetMeetsInvariants : Obligations.ResetMeetsInvariants := by
  intro r n
  have fresh := freshFor_resetWith r n
  have idle : ∀ p ∈ (State.resetWith r n).ports, p = Port.reset := fun p hp => List.eq_of_mem_replicate hp
  refine ⟨resetWith_memory_wf r n, fresh.configOk, fun p hp => ?_, fresh.residuesOk, fun p hp => ?_, fresh.cursorsOk,
    fresh.idle⟩ <;> obtain rfl := idle p hp
  · rfl
  · exact ⟨fun hrv => (by cases hrv), fun hpc => by simp [Port.reset, Port.holding] at hpc⟩

/-- Settles O48, from the reset contents of the slots. -/
theorem resetMeetsProtocol : Obligations.ResetMeetsProtocol := by
  intro r n hr
  have fresh := freshFor_resetWith r n
  refine ⟨⟨_, rfl, fresh.protocolAt hr⟩, fresh.quiet hr, fun i _ => ?_⟩
  rw [fresh.readSlot_eq, slotState_of_eq _ rfl]
  rfl

end Sys2Proof.Proofs
end

section
/-! PROOF. What the protocol invariant says in the registers' own terms: the slots, their cycle and who is inside them (rules
R44, R117). -/

namespace Sys2Proof.Safety

open Sys2Proof.Machine

section protocol

variable {u : Unwrapped} {s t : State} {a b k : Nat} {p r : Port} {v : Slot}

/-! ### The counters of a slot -/

/-- Counts that agree are registers that agree. -/
theorem SlotAt.pseq_eq_gseq (h : SlotAt u s k) (e : u.pseq k = u.gseq k) :
    (readSlot s.cap s.slots k).pseq = (readSlot s.cap s.slots k).gseq := by
  rw [h.pseqLow, h.gseqLow, e]

/-- Counts a lap apart are registers `CAP` apart. -/
theorem SlotAt.pseq_eq_lap (h : SlotAt u s k) (e : u.pseq k = u.gseq k + s.cap.toNat) :
    (readSlot s.cap s.slots k).pseq = add32 (readSlot s.cap s.slots k).gseq s.cap := by
  rw [h.pseqLow, h.gseqLow, e, add32_low]

/-- The two gaps of rule R44(d), in the registers. -/
theorem ProtocolAt.gap (h : ProtocolAt u s) (hk : k < s.cap.toNat) :
    (readSlot s.cap s.slots k).pseq = (readSlot s.cap s.slots k).gseq ∨
      (readSlot s.cap s.slots k).pseq = add32 (readSlot s.cap s.slots k).gseq s.cap :=
  (h.slots k hk).gap.imp (h.slots k hk).pseq_eq_gseq (h.slots k hk).pseq_eq_lap

/-- What a port inside a handshake knows, of the slot of its `x[pos]` (rule R110). -/
theorem ProtocolAt.handshake_slotOf (h : ProtocolAt u s) (hp : s.ports[a]? = some p) (hh : Port.holding p = true) :
    HandshakeAt s.cap p (u.pos a) (u.gseq (u.pos a % s.cap.toNat)) (u.pseq (u.pos a % s.cap.toNat))
      (slotOf s p.pos) := by
  rw [slotOf, h.slotIndex_pos hp hh]; exact (h.ports a p hp).handshake hh

/-- A producer at XFER or PUBLISH finds the counters of its slot equal (rule R112). -/
theorem ProtocolAt.pseq_of_producer (h : ProtocolAt u s) (hp : s.ports[a]? = some p) (hin : Port.inSlot p)
    (hop : producerOp p.op = true) : (slotOf s p.pos).pseq = (slotOf s p.pos).gseq := by
  obtain ⟨hg, hw⟩ := (h.ports a p hp).gseq_of_inSlot hin
  rw [if_pos hop] at hw
  rw [slotOf, h.slotIndex_pos hp hin.holding]
  exact (h.slots _ (h.slot_lt _)).pseq_eq_gseq (hw.trans hg.symm)

/-- A consumer at XFER, CLEAR or PUBLISH finds `PSEQ` of its slot a lap ahead (rule R113). -/
theorem ProtocolAt.pseq_of_consumer (h : ProtocolAt u s) (hp : s.ports[a]? = some p) (hin : Port.inSlot p)
    (hop : consumerOp p.op = true) : (slotOf s p.pos).pseq = add32 (slotOf s p.pos).gseq s.cap := by
  obtain ⟨hg, hw⟩ := (h.ports a p hp).gseq_of_inSlot hin
  rw [if_neg (by simp [producerOp_of_consumerOp hop])] at hw
  rw [slotOf, h.slotIndex_pos hp hin.holding]
  exact (h.slots _ (h.slot_lt _)).pseq_eq_lap (by rw [hw, hg])

/-- Two ports at XFER, CLEAR or PUBLISH are in different slots (rule R44(e)). -/
theorem ProtocolAt.slotIndex_ne (h : ProtocolAt u s) (hp : s.ports[a]? = some p) (hr : s.ports[b]? = some r)
    (hab : b ≠ a) (hi : Port.inSlot p) (hi' : Port.inSlot r) : slotIndex s.mask r.pos ≠ slotIndex s.mask p.pos := by
  rw [h.slotIndex_pos hp hi.holding, h.slotIndex_pos hr hi'.holding]
  exact h.inSlot_alone hp hr hab hi hi'

theorem inSlot_of_writesSlot (h : Port.writesSlot p) : Port.inSlot p := by
  rcases h with ⟨hpc, -⟩ | ⟨hpc, -⟩ | hpc
  · exact .inl hpc
  · exact .inr (.inl hpc)
  · exact .inr (.inr hpc)

/-! ### The cycle of rule R117 -/

/-- Each write of a slot is a step along the cycle, with the item that stands in the slot. -/
theorem ProtocolAt.slotMove_of_write (h : ProtocolAt u s) (hp : s.ports[a]? = some p) (hw : SlotWrite s p v) :
    slotMove s.cap (slotState s.cap (slotOf s p.pos)) (slotState s.cap v) := by
  have hcap := capacity_pos h.capacity
  have hin := inSlot_of_writesSlot hw.writesSlot
  have know := h.handshake_slotOf hp hin.holding
  cases hw with
  | stored k hpc hop =>
    have hput := producerOp_of_cases hop
    have e := h.pseq_of_producer hp hin hput
    rw [slotState_of_eq _ e, know.putEmpty hput hpc,
      slotState_of_eq _ (sl := (slotOf s p.pos).withVal (some (itemAt p.inItems k))) e]
    exact .inr (.inl ⟨_, _, rfl, rfl⟩)
  | cleared hpc hop =>
    have e := h.pseq_of_consumer hp hin hop
    obtain ⟨d, hd⟩ := Option.ne_none_iff_exists'.mp (know.getFull hop (.inr hpc))
    rw [slotState_of_lap hcap e, hd, slotState_of_lap (sl := (slotOf s p.pos).withVal none) hcap e]
    exact .inr (.inr (.inr (.inl ⟨_, d, rfl, rfl⟩)))
  | published hpc hop =>
    have e := h.pseq_of_producer hp hin hop
    obtain ⟨d, hd⟩ := Option.ne_none_iff_exists'.mp (know.putFull hop hpc)
    rw [slotState_of_eq _ e, hd, slotState_of_lap hcap (by rw [Slot.addPseq_pseq, e]; rfl), Slot.addPseq_val, hd]
    exact .inr (.inr (.inl ⟨_, d, rfl, rfl⟩))
  | released hpc hop =>
    have e := h.pseq_of_consumer hp hin hop
    have hd := know.getEmpty hop hpc
    rw [slotState_of_lap hcap e, hd, slotState_of_eq _ (by rw [Slot.addGseq_pseq, e]; rfl), Slot.addGseq_val, hd]
    exact .inr (.inr (.inr (.inr ⟨_, rfl, rfl⟩)))

/-- Under the invariant no slot's counters are outside the protocol (decision D31). -/
theorem ProtocolAt.slotState_ne_outside (h : ProtocolAt u s) (hk : k < s.cap.toNat) :
    slotState s.cap (readSlot s.cap s.slots k) ≠ .outside := by
  rcases h.gap hk with e | e
  · rw [slotState_of_eq _ e]; cases (readSlot s.cap s.slots k).val <;> simp
  · rw [slotState_of_lap (capacity_pos h.capacity) e]; cases (readSlot s.cap s.slots k).val <;> simp

/-! ### Positions that are waiting -/

/-- The register test that a producer holds a position is exact for the positions that wait, `x[pos]` being less than 2^32
behind the put cursor (rules R44(g), R122). -/
theorem ProtocolAt.holdsPut_iff (h : ProtocolAt u s) (hp : s.ports[a]? = some p) {q : Nat} (hlo : u.getc < q)
    (hhi : q ≤ u.putc) : Safety.holdsPut p (low q) ↔ u.holdsPut a p q := by
  unfold Safety.holdsPut Unwrapped.holdsPut
  refine and_congr_right fun hop => and_congr_right fun hh => ?_
  obtain ⟨hpos, hwin⟩ := (h.ports a p hp).position hh
  have hle := h.pos_le hp hh
  have hres := (h.ports a p hp).putReserved hh hop
  have hocc := h.occupancy
  have hC := s.cap.isLt
  rw [hpos]
  rcases Nat.lt_or_ge q (u.pos a) with hlt | hge
  · have back : (sub32 (low q) (low (u.pos a))).toNat = 2 ^ 32 - (u.pos a - q) := by
      simp only [sub32, BitVec.toNat_sub, low_toNat]; omega
    omega
  · rw [sub32_low hge (by omega)]; omega

/-- A position that waits and that no producer holds has been published and not yet drained: its slot is READABLE for it
(rule R44(g)). -/
theorem ProtocolAt.readable_of_not_held (h : ProtocolAt u s) {q : Nat} (hlo : u.getc < q) (hhi : q ≤ u.putc)
    (hq : ¬ u.heldPut s q) : ∃ d, slotState s.cap (slotOf s (low q)) = .readable (low q) d := by
  have hcap := capacity_pos h.capacity
  have hocc := h.occupancy
  have H := h.slots _ (h.slot_lt q)
  have ahead : q < u.pseq (q % s.cap.toNat) := Nat.lt_of_not_le fun hle => hq (H.putCover q rfl hle hhi)
  have lap := add_le_of_mod_eq rfl H.pseq_residue ahead
  have hpb := H.pseqBound
  have hgb := H.gseqBound
  have hw : u.pseq (q % s.cap.toNat) = q + s.cap.toNat := by
    by_contra hne
    have := add_le_of_mod_eq (Nat.add_mod_right q _) H.pseq_residue (by omega)
    omega
  have hg : u.gseq (q % s.cap.toNat) = q := by rcases H.gap with e | e <;> omega
  have hval : (readSlot s.cap s.slots (q % s.cap.toNat)).val ≠ none := fun hv => by
    obtain ⟨i, r, hr, hop, hpc, hpos⟩ := H.drained (by omega) hv
    have hh : Port.holding r = true := by simp [Port.holding, hpc]
    have := (h.ports i r hr).getReserved hh hop
    have := (h.ports i r hr).remaining_pos hh
    omega
  obtain ⟨d, hd⟩ := Option.ne_none_iff_exists'.mp hval
  refine ⟨d, ?_⟩
  rw [slotOf, slotIndex_low h.capacity, slotState_of_lap hcap (H.pseq_eq_lap (by omega)), hd, H.gseqLow, hg]
  rfl

/-! ### Who fills and who drains a slot -/

/-- Positions that two ports hold are told apart by their registers. -/
theorem ProtocolAt.pos_eq_of_low (h : ProtocolAt u s) (hp : s.ports[a]? = some p) (hr : s.ports[b]? = some r)
    (hh : Port.holding p = true) (hh' : Port.holding r = true) (e : p.pos = r.pos) : u.pos a = u.pos b := by
  obtain ⟨hpos, hwin⟩ := (h.ports a p hp).position hh
  obtain ⟨hpos', hwin'⟩ := (h.ports b r hr).position hh'
  have := h.pos_le hp hh
  have := h.pos_le hr hh'
  rw [hpos, hpos'] at e
  exact low_inj e (by omega) (by omega)

/-- A slot that holds an item not yet published has exactly one producer at PUBLISH for it (rules R32, R44(f)). -/
theorem ProtocolAt.unique_filler (h : ProtocolAt u s) (hk : k < s.cap.toNat) (hgap : u.pseq k = u.gseq k)
    (hv : (readSlot s.cap s.slots k).val ≠ none) :
    ∃! a : Nat, ∃ p : Port, s.ports[a]? = some p ∧ producerOp p.op = true ∧ p.pc = .publish ∧
      p.pos = (readSlot s.cap s.slots k).gseq := by
  obtain ⟨a, p, hp, hop, hpc, hpos⟩ := (h.slots k hk).filled hgap hv
  have hh : Port.holding p = true := by simp [Port.holding, hpc]
  have own : p.pos = (readSlot s.cap s.slots k).gseq := by
    rw [((h.ports a p hp).position hh).1, hpos, (h.slots k hk).gseqLow]
  refine ⟨a, ⟨p, hp, hop, hpc, own⟩, ?_⟩
  rintro b ⟨r, hr, hop', hpc', hpos'⟩
  have hh' : Port.holding r = true := by simp [Port.holding, hpc']
  by_contra hne
  exact h.put_pos_ne hp hr hne hop hop' hh hh' (h.pos_eq_of_low hr hp hh' hh (hpos'.trans own.symm))

/-- A slot emptied and not yet released has exactly one consumer at PUBLISH for it (rules R32, R44(f)). -/
theorem ProtocolAt.unique_drainer (h : ProtocolAt u s) (hk : k < s.cap.toNat) (hgap : u.pseq k ≠ u.gseq k)
    (hv : (readSlot s.cap s.slots k).val = none) :
    ∃! a : Nat, ∃ p : Port, s.ports[a]? = some p ∧ consumerOp p.op = true ∧ p.pc = .publish ∧
      p.pos = (readSlot s.cap s.slots k).gseq := by
  obtain ⟨a, p, hp, hop, hpc, hpos⟩ := (h.slots k hk).drained hgap hv
  have hh : Port.holding p = true := by simp [Port.holding, hpc]
  have own : p.pos = (readSlot s.cap s.slots k).gseq := by
    rw [((h.ports a p hp).position hh).1, hpos, (h.slots k hk).gseqLow]
  refine ⟨a, ⟨p, hp, hop, hpc, own⟩, ?_⟩
  rintro b ⟨r, hr, hop', hpc', hpos'⟩
  have hh' : Port.holding r = true := by simp [Port.holding, hpc']
  by_contra hne
  exact h.get_pos_ne hp hr hne hop hop' hh hh' (h.pos_eq_of_low hr hp hh' hh (hpos'.trans own.symm))

/-- The occupancy (rule R44(b)), in the registers. -/
theorem ProtocolAt.occupancy_le (h : ProtocolAt u s) : (sub32 s.putc s.getc).toNat ≤ s.cap.toNat := by
  have hocc := h.occupancy
  have hC := s.cap.isLt
  rw [h.cursorsLow.1, h.cursorsLow.2, sub32_low hocc.1 (by omega)]; omega

/-- The residue classes (rule R44(c)), in the registers. -/
theorem ProtocolAt.residuesOk (h : ProtocolAt u s) : residuesOk s := fun k hk => by
  have H := h.slots k hk
  rw [H.pseqLow, H.gseqLow, slotIndex_low h.capacity, slotIndex_low h.capacity]
  exact ⟨H.pseq_residue, H.residue⟩

end protocol

/-! ### Items in the slots -/

section items

/-- Filling one place of a list of optional items adds that item, up to order. -/
theorem filterMap_range_perm {n i : Nat} {f g : Nat → Option Item} {d : Item} (hi : i < n) (hf : f i = none)
    (hg : g i = some d) (same : ∀ k, k ≠ i → g k = f k) :
    ((List.range n).filterMap g).Perm (d :: (List.range n).filterMap f) := by
  have split := List.perm_cons_erase (List.mem_range.mpr hi)
  have rest : ((List.range n).erase i).filterMap g = ((List.range n).erase i).filterMap f :=
    List.filterMap_congr fun k hk => same k ((List.nodup_range.mem_erase_iff.mp hk).1)
  have hsplit := split.filterMap f
  rw [List.filterMap_cons_none hf] at hsplit
  have gsplit := split.filterMap g
  rw [List.filterMap_cons_some hg, rest] at gsplit
  exact gsplit.trans (hsplit.symm.cons d)

variable {u : Unwrapped} {s t : State} {a : Nat} {p : Port}

/-- The items in the slots are a matter of `VAL` only. -/
theorem storedItems_congr (hcap : t.cap = s.cap)
    (hval : ∀ k, (readSlot t.cap t.slots k).val = (readSlot s.cap s.slots k).val) : storedItems t = storedItems s := by
  unfold storedItems
  rw [hcap] at hval ⊢
  exact List.filterMap_congr fun k _ => hval k

/-- A slot filled, the others keeping their `VAL`. -/
theorem storedItems_perm {i : Nat} {d : Item} (hcap : t.cap = s.cap) (hi : i < s.cap.toNat)
    (hs : (readSlot s.cap s.slots i).val = none) (ht : (readSlot t.cap t.slots i).val = some d)
    (same : ∀ k, k ≠ i → readSlot t.cap t.slots k = readSlot s.cap s.slots k) :
    (storedItems t).Perm (d :: storedItems s) := by
  unfold storedItems
  rw [hcap] at ht same ⊢
  exact filterMap_range_perm hi hs ht fun k hk => by rw [same k hk]

/-- XFER of a producer adds the item of its lane to the items in the slots (rule R123). -/
theorem ProtocolAt.storedItems_xfer (h : ProtocolAt u s) (hp : s.ports[a]? = some p) (hm : PortMove s p t)
    (hpc : p.pc = .xfer) (hop : producerOp p.op = true) :
    ∃ k, ((p.op = 0x01#8 ∧ k = 0) ∨ (p.op = 0x02#8 ∧ k = p.k.toNat)) ∧
      (storedItems t).Perm (itemAt p.inItems k :: storedItems s) := by
  have hin : Port.inSlot p := .inl hpc
  have know := h.handshake_slotOf hp hin.holding
  rcases portMove_readSlot h.memory hm with ⟨hno, -⟩ | ⟨v, hv, hi, ht⟩
  · exact absurd (.inl ⟨hpc, hop⟩) hno
  · cases hv with
    | stored k _ hk =>
      exact ⟨k, hk, storedItems_perm (portMove_config hm).1 hi (know.putEmpty hop hpc) (by rw [ht, if_pos rfl]; rfl)
        fun j hj => by rw [ht, if_neg hj]⟩
    | cleared hpc' => rw [hpc] at hpc'; cases hpc'
    | published hpc' => rw [hpc] at hpc'; cases hpc'
    | released hpc' => rw [hpc] at hpc'; cases hpc'

/-- CLEAR removes from the items in the slots the one last appended to `OUT` (rule R124). -/
theorem ProtocolAt.storedItems_clear (h : ProtocolAt u s) (hp : s.ports[a]? = some p) (hm : PortMove s p t)
    (hpc : p.pc = .clear) :
    ∃ before d, p.outItems = before ++ [d] ∧ (storedItems s).Perm (d :: storedItems t) := by
  have hin : Port.inSlot p := .inr (.inl hpc)
  have hop : consumerOp p.op = true := by have := (h.ports a p hp).phase; rwa [hpc] at this
  have know := h.handshake_slotOf hp hin.holding
  obtain ⟨d, hd⟩ := Option.ne_none_iff_exists'.mp (know.getFull hop (.inr hpc))
  obtain ⟨before, hout⟩ := List.getLast?_eq_some_iff.mp ((know.taken hop hpc).symm.trans hd)
  refine ⟨before, d, hout, ?_⟩
  have hcap := (portMove_config hm).1
  rcases portMove_readSlot h.memory hm with ⟨hno, -⟩ | ⟨v, hv, hi, ht⟩
  · exact absurd (.inr (.inl ⟨hpc, hop⟩)) hno
  · cases hv with
    | cleared =>
      exact storedItems_perm hcap.symm (by rw [hcap]; exact hi) (by rw [ht, if_pos rfl]; rfl) hd
        fun j hj => by rw [ht, if_neg hj]
    | stored _ hpc' => rw [hpc] at hpc'; cases hpc'
    | published hpc' => rw [hpc] at hpc'; cases hpc'
    | released hpc' => rw [hpc] at hpc'; cases hpc'

/-- Every other move leaves the items in the slots as they are. -/
theorem portMove_storedItems (hwf : Memory.wf s.cap s.slots = true) (hm : PortMove s p t) (hclear : p.pc ≠ .clear)
    (hxfer : ¬ (p.pc = .xfer ∧ producerOp p.op = true)) : storedItems t = storedItems s := by
  refine storedItems_congr (portMove_config hm).1 fun k => ?_
  rcases portMove_val hwf hm k with e | ⟨hpc, hop, -⟩ | ⟨hpc, -⟩
  · exact e
  · exact absurd ⟨hpc, hop⟩ hxfer
  · exact absurd hpc hclear

/-! ### Items on the way out -/

/-- XFER of a consumer takes the slot's item (rule R124). -/
theorem portMove_of_consumer_xfer (hm : PortMove s p t) (hpc : p.pc = .xfer) (hop : consumerOp p.op = true) :
    ∃ before d, ((p.op = 0x03#8 ∧ before = []) ∨ (p.op = 0x04#8 ∧ before = p.outItems)) ∧
      (slotOf s p.pos).val = some d ∧ t = s.setPort { p with outItems := before ++ [d], pc := .clear } := by
  cases hm
  case taken before d _ hop' _ hd => exact ⟨before, d, hop', hd, rfl⟩
  case stored hop' _ => simp [consumerOp_of_producerOp (producerOp_of_cases hop')] at hop
  all_goals simp_all

/-- How a consumer's operation ends (rules R140, R141, R161, R162): turned away with nothing, or, its last item released, with
all of `OUT`. -/
inductive ConsumerAnswer (p p' : Port) : Prop where
  | turnedAway (hpc : p.pc = .snapP ∨ p.pc = .reserve) (hout : p'.rsp.out = []) (hcnt : p'.rsp.cnt = 0#32)
  | finished (hpc : p.pc = .publish) (hout : p'.rsp.out = p.outItems)
      (hcnt : (p.op = 0x03#8 ∧ p'.rsp.cnt = 1#32) ∨
        (p.op = 0x04#8 ∧ p'.rsp.cnt = p.n ∧ ¬ p.k.toNat + 1 < p.n.toNat))

/-- When a consumer becomes idle, it has answered in one of these ways. -/
theorem portMove_consumerAnswer (hm : PortMove s p t) (hop : consumerOp p.op = true) (hbusy : p.pc ≠ .idle) :
    ∃ p', t.ports = s.ports.set s.active p' ∧ (p'.pc = .idle → ConsumerAnswer p p') := by
  cases hm
  case refused hpc => exact absurd hpc hbusy
  case issued hpc _ => exact absurd hpc hbusy
  case rejected hpc _ => exact ⟨_, rfl, fun _ => .turnedAway (.inl hpc) rfl rfl⟩
  case rejectedBatch hpc _ => exact ⟨_, rfl, fun _ => .turnedAway (.inl hpc) rfl rfl⟩
  case contended hpc _ => exact ⟨_, rfl, fun _ => .turnedAway (.inr hpc) rfl rfl⟩
  case releasedLast n hpc hop' _ => exact ⟨_, rfl, fun _ => .finished hpc rfl hop'⟩
  case answeredOcc hop' => simp [hop', consumerOp] at hop
  case answeredStat hop' => simp [hop', consumerOp] at hop
  case answeredCap hop' => simp [hop', consumerOp] at hop
  case publishedLast hop' _ => simp [consumerOp_of_producerOp (producerOp_of_cases hop')] at hop
  case polledForRead => exact ⟨_, rfl, by dsimp only; split <;> simp⟩
  case polledForWrite => exact ⟨_, rfl, by dsimp only; split <;> simp⟩
  all_goals exact ⟨_, rfl, by simp⟩

/-- The answer of a consumer hands over all of `OUT` and counts it (rules R37, R140, R141). -/
theorem PortAt.answer_counts {p' : Port} (h : PortAt u s a p) (hop : consumerOp p.op = true)
    (answer : ConsumerAnswer p p') : p'.rsp.out = p.outItems ∧ p'.rsp.cnt.toNat = p.outItems.length := by
  cases answer with
  | turnedAway hpc hout hcnt =>
    have hnil : p.outItems = [] := h.outItems_nil hop (by rcases hpc with e | e <;> simp [e])
      (by rcases hpc with e | e <;> simp [Port.taken, e])
    rw [hout, hcnt, hnil]; exact ⟨rfl, rfl⟩
  | finished hpc hout hlast =>
    have items := h.items hop (by simp [hpc])
    refine ⟨hout, ?_⟩
    rcases hlast with ⟨hop', hcnt⟩ | ⟨hop', hcnt, hk⟩ <;> simp only [Port.taken, hpc, hop'] at items <;>
      rw [hcnt, items]
    · rfl
    · have := h.batch (by simp [Port.holding, hpc]) (.inr hop')
      simp only [if_true]; omega

end items

end Sys2Proof.Safety
end

section
/-! PROOF. What the protocol invariant gives, settled (rules R32, R44, R117, R125, R176). -/

namespace Sys2Proof.Proofs

open Sys2Proof.Machine Sys2Proof.Safety

/-- Settles O51: the two ports' slots differ, and a move writes no slot but its own port's. -/
theorem handshakesAreExclusive : Obligations.HandshakesAreExclusive := by
  rintro s a b p q ⟨u, hu⟩ hp hq hpc
  refine ⟨fun hqc hidx => ?_, fun t hab hn h => ?_⟩
  · by_contra hab
    exact hu.slotIndex_ne hp hq (Ne.symm hab) hpc hqc hidx.symm
  · rcases step_of_turn hn hq h with ⟨-, rfl⟩ | hm
    · simp [slotOf]
    · rw [slotOf, (portMove_config hm).2.1]
      have other := portMove_otherSlots (hu.turnState b).memory hm (slotIndex (turnState s b).mask p.pos)
        fun ⟨hw, hidx⟩ => hu.slotIndex_ne hp hq (Ne.symm hab) hpc (inSlot_of_writesSlot hw) (by simpa using hidx.symm)
      simpa [slotOf] using other

/-- Settles O52: a write is a step along the cycle, and nothing else changes a slot. -/
theorem slotsFollowTheCycle : Obligations.SlotsFollowTheCycle := by
  rintro s t i k ⟨u, hu⟩ hn h hk
  refine ⟨?_, hu.slotState_ne_outside hk⟩
  rcases step_next h with ⟨req, hr, -⟩ | ⟨i', p, -, -, -, -, rfl⟩ | ⟨i', p, -, hp, hm⟩
  · rw [hn] at hr; cases hr
  · exact .inl (by simp)
  · have hcap : t.cap = s.cap := by simpa using (portMove_config hm).1
    rcases portMove_readSlot (hu.turnState i').memory hm with ⟨-, ht⟩ | ⟨v, hv, -, ht⟩ <;> rw [ht, hcap]
    · exact .inl (by simp)
    · split
      · rename_i e
        have move := (hu.turnState i').slotMove_of_write (a := i') (by simpa using hp) hv
        rw [slotOf, ← e] at move
        simpa using move
      · exact .inl (by simp)

/-- Settles O53, clause by clause. -/
theorem itemsAreConserved : Obligations.ItemsAreConserved := by
  rintro s t i p p' ⟨u, hu⟩ hn hp h hp'
  rcases step_of_turn hn hp h with ⟨hpc, rfl⟩ | hm
  · rw [turnState_ports, hp] at hp'; cases hp'
    simp [hpc, storedItems]
  · have hu' := hu.turnState i
    have hp₁ : (turnState s i).ports[i]? = some p := by simpa using hp
    have hsame : storedItems (turnState s i) = storedItems s := by simp [storedItems]
    have hat := hu'.ports i p hp₁
    have find : ∀ {q}, t.ports = (turnState s i).ports.set (turnState s i).active q → p' = q :=
      fun hq => eq_of_ports_set hp₁ hq hp'
    refine ⟨fun hpc hop => ?_, fun hpc hop => ?_, fun hpc => ?_, fun hpc hx => ?_, fun hop hpc => ?_,
      fun hop hpc hx => ?_, fun hop hpc hidle => ?_⟩
    · obtain ⟨k, hk, perm⟩ := hu'.storedItems_xfer hp₁ hm hpc (by simp [producerOp, hop])
      obtain rfl : k = 0 := by simpa [hop] using hk
      rwa [hsame] at perm
    · obtain ⟨k, hk, perm⟩ := hu'.storedItems_xfer hp₁ hm hpc (by simp [producerOp, hop])
      obtain rfl : k = p.k.toNat := by simpa [hop] using hk
      rwa [hsame] at perm
    · rw [← hsame]; exact hu'.storedItems_clear hp₁ hm hpc
    · rw [← hsame]; exact portMove_storedItems hu'.memory hm hpc hx
    · obtain ⟨before, d, hbefore, hd, rfl⟩ := portMove_of_consumer_xfer hm hpc hop
      obtain rfl := hat.before_eq_outItems hpc hbefore
      obtain rfl := find rfl
      exact ⟨d, by simpa [slotOf] using hd, rfl⟩
    · obtain ⟨q, hq, kept⟩ := portMove_registers hm
      obtain rfl := find hq
      exact kept.outItems hpc (.inl hx)
    · obtain ⟨q, hq, answer⟩ := portMove_consumerAnswer hm hop hpc
      obtain rfl := find hq
      exact hat.answer_counts hop (answer hidle)

/-- Settles O54: a waiting position is held by the one producer that has it, or READABLE. -/
theorem waitingPositionsAreAccountedFor : Obligations.WaitingPositionsAreAccountedFor := by
  rintro s q ⟨u, hu⟩ hlo hhi
  have hocc := hu.occupancy
  have hC := s.cap.isLt
  have hget := hu.cursorsLow.2
  rw [hu.cursorsLow.1, hget, sub32_low hocc.1 (by omega)] at hhi
  rw [hget] at hlo
  obtain ⟨n, hq, hn, hn'⟩ : ∃ n, q = low n ∧ u.getc < n ∧ n ≤ u.putc := by
    refine ⟨u.getc + (sub32 q (low u.getc)).toNat, ?_, by omega, by omega⟩
    rw [← add32_low]; simp [add32, sub32]
  subst hq
  by_cases hheld : u.heldPut s n
  · obtain ⟨a, p, hp, hpn⟩ := hheld
    refine .inl ⟨a, p, hp, (hu.holdsPut_iff hp hn hn').mpr hpn, fun b r hr hrn => ?_⟩
    by_contra hne
    exact hu.putApart b a r p hr hp hne n ((hu.holdsPut_iff hr hn hn').mp hrn) hpn
  · refine .inr ⟨fun p hp hpn => ?_, hu.readable_of_not_held hn hn' hheld⟩
    obtain ⟨a, ha⟩ := List.mem_iff_getElem?.mp hp
    exact hheld ⟨a, p, ha, (hu.holdsPut_iff ha hn hn').mp hpn⟩

/-- Settles O60: by the gap of the counters and then by `VAL`. -/
theorem protocolGivesR44 : Obligations.ProtocolGivesR44 := by
  rintro s ⟨u, hu⟩
  refine ⟨hu.capacity, hu.occupancy_le, hu.residuesOk, fun k hk => ?_⟩
  have H := hu.slots k hk
  have hcap := capacity_pos hu.capacity
  rcases H.gap with hgap | hgap
  · have e := H.pseq_eq_gseq hgap
    rw [slotState_of_eq _ e]
    refine ⟨.inl (by simp [sub32, e]), ?_⟩
    cases hv : (readSlot s.cap s.slots k).val with
    | none => simp
    | some d =>
      have filler := hu.unique_filler hk hgap (by simp [hv])
      simpa using filler
  · have e := H.pseq_eq_lap hgap
    rw [slotState_of_lap hcap e]
    refine ⟨.inr (by rw [e, sub32_add32_left]), ?_⟩
    cases hv : (readSlot s.cap s.slots k).val with
    | none =>
      have drainer := hu.unique_drainer hk (by omega) hv
      simpa using drainer
    | some d => simp

end Sys2Proof.Proofs
end

section
/-! PROOF. Single steps and whole runs of the queries, and what a block that refused its construction answers (rules R42,
R91, R150 to R152). -/

namespace Sys2Proof.Machine

open Sys2Proof.Safety

/-! ### One step of `exec` -/

section exec

variable {s : State} {p : Port} {j : Instr} {label : Phase → State → Port → Result}

/-- On an idle port `exec` is the issue step (rule R91). -/
theorem exec_of_idle (hp : s.activePort? = some p) (hpc : p.pc = .idle) : exec j s = .next (issue j s p) := by
  have runs : ∃ label, exec j s = runStep j label s := by cases j <;> exact ⟨_, rfl⟩
  obtain ⟨label, hl⟩ := runs
  simp [hl, runStep, hp, hpc]

/-- Inside the operation it has latched a port takes the step of its phase (rules R14, R34). -/
theorem runStep_of_latched (hp : s.activePort? = some p) (hpc : p.pc ≠ .idle) (hop : p.op = j.opcode) :
    runStep j label s = label p.pc s p := by
  simp [runStep, hp, hpc, hop]

/-- The record of a port that has latched command `j` (rule R91). -/
def Port.issued (j : Instr) (p : Port) : Port :=
  { p with
    rsp := { p.rsp with rv := false }, op := j.opcode, arg := j.arg, inItems := latchedItems j p.cmds
    outItems := [], cmds := p.cmds.tail, pc := if j.opcode = 0x06#8 then .capq else .snapG }

/-- Issue on a legal block (rule R91). -/
theorem issue_legal (hc : s.cfgErr = false) : issue j s p = s.setPort (p.issued j) := by
  simp [issue, hc, Port.issued]

/-- Only CAP has the opcode of CAP (rule R85). -/
theorem opcode_eq_cap : j.opcode = 0x06#8 ↔ j = .cap := by
  cases j <;> simp [Instr.opcode]

/-- SNAP_G of any operation but CAP (rule R119). -/
theorem exec_snapG (hp : s.activePort? = some p) (hpc : p.pc = .snapG) (hop : p.op = j.opcode) (hj : j ≠ .cap) :
    exec j s = .next (s.setPort { p with gs := s.getc, pc := .snapP }) := by
  have busy : p.pc ≠ .idle := by simp [hpc]
  cases j
  case cap => exact absurd rfl hj
  all_goals exact (runStep_of_latched hp busy hop).trans (by rw [hpc]; rfl)

/-- The answer of OCC (rule R150). -/
theorem exec_occ_snapP (hp : s.activePort? = some p) (hpc : p.pc = .snapP) (hop : p.op = 0x05#8) :
    exec .occ s = .next (s.setPort ((p.snapshot s).respond (Rsp.answer true 0#32 (est s.cap p.gs s.putc) [] []))) :=
  (runStep_of_latched (j := .occ) hp (by simp [hpc]) hop).trans (by rw [hpc]; rfl)

/-- The answer of CAP (rule R151). -/
theorem exec_cap_capq (hp : s.activePort? = some p) (hpc : p.pc = .capq) (hop : p.op = 0x06#8) :
    exec .cap s = .next (s.setPort (p.respond (Rsp.answer true 0#32 0#32 [] [s.cap]))) :=
  (runStep_of_latched (j := .cap) hp (by simp [hpc]) hop).trans (by rw [hpc]; rfl)

/-- The answer of STAT (rule R152). -/
theorem exec_stat_snapP (hp : s.activePort? = some p) (hpc : p.pc = .snapP) (hop : p.op = 0x07#8) :
    exec .stat s = .next (s.setPort ((p.snapshot s).respond
      (Rsp.answer true 0#32 (est s.cap p.gs s.putc) [] [s.cap, s.mask, s.putc, p.gs]))) :=
  (runStep_of_latched (j := .stat) hp (by simp [hpc]) hop).trans (by rw [hpc]; rfl)

/-- Issue on a block that refused its construction answers the word as illegal (rule R42). -/
theorem issue_refused (hc : s.cfgErr = true) : issue j s p = raiseIllegal s p := by
  simp [issue, hc]

/-- On such a block every word presented to an idle port is answered as illegal, legal or not (rules R42, R86). -/
theorem stepPort_refused {c : Command} {cs : List Command} (hp : s.activePort? = some p) (hpc : p.pc = .idle)
    (hcmds : p.cmds = c :: cs) (hc : s.cfgErr = true) : stepPort s = .next (raiseIllegal s p) := by
  cases hd : decode c.word with
  | none => exact stepPort_illegal hp hpc hcmds hd
  | some j => rw [stepPort_presented hp hpc hcmds hd, exec_of_idle hp hpc, issue_refused hc]

end exec

/-! ### The estimate -/

/-- The estimate is determined by its number (rule R120). -/
theorem eq_est {cap gs ps occ : U32} (h : occ.toNat = min (ps - gs).toNat cap.toNat) : occ = est cap gs ps :=
  BitVec.eq_of_toNat_eq (h.trans (est_toNat cap gs ps).symm)

/-- Within `CAP` the estimate is the occupancy itself (rule R120). -/
theorem est_of_le {cap gs ps : U32} (h : (sub32 ps gs).toNat ≤ cap.toNat) : est cap gs ps = sub32 ps gs := if_pos h

/-! ### Turns that touch no shared state -/

/-- `t` is `s` with a turn of port `i` taken from the schedule, that port's record now `p'`, and every location of the
shared space as before. -/
structure QueryTurn (s t : State) (i : Nat) (p' : Port) (ts : List Turn) : Prop where
  sched : t.sched = ts
  port : t.ports[i]? = some p'
  shared : sharedSame s t

section queries

variable {s t : State} {i : Nat} {p p' : Port} {ts : List Turn} {j : Instr}

theorem sharedSame_trans {a b c : State} (h : sharedSame a b) (h' : sharedSame b c) : sharedSame a c := by
  obtain ⟨h1, h2, h3, h4, h5, h6⟩ := h
  obtain ⟨k1, k2, k3, k4, k5, k6⟩ := h'
  exact ⟨k1.trans h1, k2.trans h2, k3.trans h3, k4.trans h4, k5.trans h5, fun j => (k6 j).trans (h6 j)⟩

/-- Replacing the record of the port that has the turn is such a turn. -/
theorem queryTurn_setPort (hs : s.sched = .port i :: ts) (hp : s.ports[i]? = some p) :
    QueryTurn s ((turnState s i).setPort p') i p' ts := by
  have hlt := (List.getElem?_eq_some_iff.mp hp).1
  refine ⟨?_, ?_, ?_⟩
  · rw [turnState_of_sched hs]; rfl
  · rw [State.setPort_ports, turnState_ports, turnState_active, List.getElem?_set_self hlt]
  · simp [sharedSame]

/-- The turn that issues a command (rule R91). -/
theorem queryTurn_issue {c : Command} {cs : List Command} (hs : s.sched = .port i :: ts) (hp : s.ports[i]? = some p)
    (hc : s.cfgErr = false) (hpc : p.pc = .idle) (hcmds : p.cmds = c :: cs) (hd : decode c.word = some j) :
    ∃ t, step s = .next t ∧ QueryTurn s t i (p.issued j) ts := by
  have hact : (turnState s i).activePort? = some p := by simpa using hp
  refine ⟨_, ?_, queryTurn_setPort hs hp⟩
  rw [step_of_port (nextTurn_of_sched hs), stepPort_presented hact hpc hcmds hd, exec_of_idle hact hpc,
    issue_legal (by simpa using hc)]

/-- The operation latched at issue is the one issued. -/
theorem ofLatched_self (j : Instr) : Instr.ofLatched j.opcode j.arg = some j := by cases j <;> rfl

/-- A turn inside an operation whose step replaces the port's record only. -/
theorem queryTurn_exec (hs : s.sched = .port i :: ts) (hp : s.ports[i]? = some p) (hpc : p.pc ≠ .idle)
    (hop : p.op = j.opcode) (harg : p.arg = j.arg)
    (hexec : exec j (turnState s i) = .next ((turnState s i).setPort p')) :
    ∃ t, step s = .next t ∧ QueryTurn s t i p' ts := by
  refine ⟨_, ?_, queryTurn_setPort hs hp⟩
  rw [step_of_port (nextTurn_of_sched hs),
    stepPort_latched (by simpa using hp) hpc (by rw [hop, harg]; exact ofLatched_self j), hexec]

/-- One turn more. -/
theorem run_succ {k : Nat} {r : State} (hrun : run k s = .next t) (hstep : step t = .next r) :
    run (k + 1) s = .next r := by
  induction k generalizing s with
  | zero => cases hrun; simp [run, hstep]
  | succ k ih =>
    rw [run] at hrun ⊢
    cases h : step s with
    | next s' => rw [h] at hrun; exact ih hrun
    | fault f => rw [h] at hrun; cases hrun
    | refused f => rw [h] at hrun; cases hrun

/-- The first two turns of an operation other than CAP: issue, and the snapshot of `GETC` (rules R91, R119). -/
theorem run_to_snapP {c : Command} {cs : List Command} (hs : s.sched = .port i :: .port i :: ts)
    (hp : s.ports[i]? = some p) (hc : s.cfgErr = false) (hpc : p.pc = .idle) (hcmds : p.cmds = c :: cs)
    (hd : decode c.word = some j) (hj : j ≠ .cap) :
    ∃ t q, run 2 s = .next t ∧ QueryTurn s t i q ts ∧ q.op = j.opcode ∧ q.arg = j.arg ∧ q.pc = .snapP ∧
      q.gs = s.getc := by
  obtain ⟨t₁, step₁, turn₁⟩ := queryTurn_issue hs hp hc hpc hcmds hd
  have hpc₁ : (p.issued j).pc = .snapG := if_neg (mt opcode_eq_cap.mp hj)
  have hact : (turnState t₁ i).activePort? = some (p.issued j) := by simpa using turn₁.port
  obtain ⟨t₂, step₂, turn₂⟩ := queryTurn_exec turn₁.sched turn₁.port (by simp [hpc₁]) rfl rfl
    (exec_snapG hact hpc₁ rfl hj)
  refine ⟨t₂, _, run_succ (k := 1) ?_ step₂,
    ⟨turn₂.sched, turn₂.port, sharedSame_trans turn₁.shared turn₂.shared⟩, rfl, rfl, rfl, ?_⟩
  · simp [run, step₁]
  · obtain ⟨-, -, -, -, hget, -⟩ := turn₁.shared
    simpa using hget

end queries

end Sys2Proof.Machine
end

section
/-! PROOF. Reset values, the queries and the response header, settled (rules R35, R40 to R42, R84, R150 to R152). -/

namespace Sys2Proof.Proofs

open Sys2Proof.Machine Sys2Proof.Safety

/-- Settles O12: the algorithm overflows to 0, and `CFG_ERR = 1` shuts out every command. -/
theorem oversizeRequestIsRefused : Obligations.OversizeRequestIsRefused := by
  intro r n hr
  have hcap : (State.resetWith r n).cap = 0#32 := resetCap_oversize hr
  refine ⟨norm_oversize hr, resetCfgErr_oversize hr, hcap, resetMask_oversize hr, rfl, rfl,
    fun i => slot?_eq_none.mpr (by rw [hcap]; exact Nat.zero_le i), fun p hp => ?_, fun i c hi => ?_⟩
  · rw [List.eq_of_mem_replicate hp]; exact ⟨rfl, rfl⟩
  · have hlt : i < (State.resetWith r n).ports.length := by simpa using hi
    generalize hs : ({ State.resetWith r n with
      ports := (State.resetWith r n).ports.set i { Port.reset with cmds := [c] }, sched := [.port i] } : State) = s
    have hp : s.ports[i]? = some { Port.reset with cmds := [c] } := by rw [← hs]; exact List.getElem?_set_self hlt
    have hsched : s.sched = [.port i] := by rw [← hs]
    have hcfg : s.cfgErr = true := by rw [← hs]; exact resetCfgErr_oversize hr
    refine ⟨_, { Port.reset with cmds := [], rsp := Rsp.illegal }, ?_, (queryTurn_setPort hsched hp).port, rfl,
      rfl⟩
    rw [step_of_port (nextTurn_of_sched hsched), stepPort_refused (by simpa using hp) rfl rfl (by simpa using hcfg)]
    rfl

/-- Settles O13: a legal capacity has a slot 0, and every slot reads as its reset contents. -/
theorem resetValuesOfR40 : Obligations.ResetValuesOfR40 := by
  intro r n hr
  have hcap : (State.resetWith r n).cap = Machine.norm r := resetCap_legal hr
  have slot : ∀ i, i < (Machine.norm r).toNat →
      (State.resetWith r n).slot? i = some (Slot.initial (Machine.norm r) i) := fun i hi =>
    slot?_eq_some.mpr ⟨by rw [hcap]; exact hi, by rw [hcap]; rfl⟩
  have hpos : 0 < (Machine.norm r).toNat := by
    obtain ⟨j, -, hj⟩ := norm_pow_two hr
    rw [hj]; exact Nat.two_pow_pos j
  refine ⟨hcap, resetMask_legal hr, resetCfgErr_legal hr, rfl, rfl, slot 0 hpos, fun i hi hlt => ?_,
    List.length_replicate, fun p hp => ?_⟩
  · rw [slot i hlt, Slot.initial, initialSeq, if_neg (by omega)]
  · rw [List.eq_of_mem_replicate hp]; exact ⟨rfl, rfl⟩

/-- Settles O21: the step of each phase. -/
theorem statFollowsItsSteps : Obligations.StatFollowsItsSteps := by
  intro s p hp hop
  refine ⟨fun hpc => exec_snapG hp hpc hop (by decide), fun hpc occ hocc => ?_⟩
  rw [eq_est hocc]
  exact exec_stat_snapP hp hpc hop

/-- Settles O27: issue, the snapshot of `GETC`, and the answer; for CAP issue and the answer. -/
theorem queriesAloneComplete : Obligations.QueriesAloneComplete := by
  intro s i p cs ts hc hp hpc hle
  refine ⟨fun hcmds hs => ?_, fun hcmds hs => ?_, fun hcmds hs => ?_⟩
  · obtain ⟨t, q, run₂, turn₂, hop, harg, hq, hgs⟩ := run_to_snapP hs hp hc hpc hcmds (j := .occ) rfl (by decide)
    have hact : (turnState t i).activePort? = some q := by simpa using turn₂.port
    obtain ⟨t', step₃, turn₃⟩ := queryTurn_exec turn₂.sched turn₂.port (by simp [hq]) hop harg
      (exec_occ_snapP hact hq hop)
    refine ⟨t', _, run_succ run₂ step₃, turn₃.port, rfl, sharedSame_trans turn₂.shared turn₃.shared, ?_⟩
    obtain ⟨hcap, -, -, hput, -, -⟩ := turn₂.shared
    simp [Rsp.answer, hcap, hput, hgs, est_of_le hle]
  · obtain ⟨t, step₁, turn₁⟩ := queryTurn_issue hs hp hc hpc hcmds (j := .cap) rfl
    have hact : (turnState t i).activePort? = some (p.issued .cap) := by simpa using turn₁.port
    obtain ⟨t', step₂, turn₂⟩ := queryTurn_exec turn₁.sched turn₁.port (by simp [Port.issued, Instr.opcode]) rfl
      rfl (exec_cap_capq hact rfl rfl)
    refine ⟨t', _, run_succ (k := 1) (by simp [run, step₁]) step₂, turn₂.port, rfl,
      sharedSame_trans turn₁.shared turn₂.shared, ?_⟩
    obtain ⟨hcap, -, -, -, -, -⟩ := turn₁.shared
    simp [Rsp.answer, hcap]
  · obtain ⟨t, q, run₂, turn₂, hop, harg, hq, hgs⟩ := run_to_snapP hs hp hc hpc hcmds (j := .stat) rfl (by decide)
    have hact : (turnState t i).activePort? = some q := by simpa using turn₂.port
    obtain ⟨t', step₃, turn₃⟩ := queryTurn_exec turn₂.sched turn₂.port (by simp [hq]) hop harg
      (exec_stat_snapP hact hq hop)
    refine ⟨t', _, run_succ run₂ step₃, turn₃.port, rfl, sharedSame_trans turn₂.shared turn₃.shared, ?_⟩
    obtain ⟨hcap, hmask, -, hput, -, -⟩ := turn₂.shared
    simp [Rsp.answer, hcap, hmask, hput, hgs, est_of_le hle]

/-- Settles O58: each field by the place where its part is appended. -/
theorem headerLayoutOfR84 : Obligations.HeaderLayoutOfR84 := by
  intro r
  unfold Rsp.header
  refine ⟨?_, ?_, ?_, ?_, BitVec.extractLsb'_append_eq_right⟩
  · rw [BitVec.extractLsb'_append_eq_of_le (by decide), BitVec.extractLsb'_append_eq_of_le (by decide),
      BitVec.extractLsb'_append_eq_of_le (by decide)]
    exact BitVec.extractLsb'_append_eq_left
  · rw [BitVec.extractLsb'_append_eq_of_le (by decide), BitVec.extractLsb'_append_eq_of_le (by decide),
      BitVec.extractLsb'_append_eq_of_le (by decide)]
    exact BitVec.extractLsb'_append_eq_right
  · rw [BitVec.extractLsb'_append_eq_of_le (by decide), BitVec.extractLsb'_append_eq_of_le (by decide)]
    exact BitVec.extractLsb'_append_eq_right
  · rw [BitVec.extractLsb'_append_eq_of_le (by decide)]
    exact BitVec.extractLsb'_append_eq_right

end Sys2Proof.Proofs
end

section
/-! PROOF. Single steps of the put and the get family: RESERVE won and lost, the two samples of a poll (rules R118, R121). -/

namespace Sys2Proof.Machine

open Sys2Proof.Safety

/-! ### The step labels of the four commands -/

theorem producerOp_iff {op : BitVec 8} : producerOp op = true ↔ op = 0x01#8 ∨ op = 0x02#8 := by
  simp [producerOp]

theorem consumerOp_iff {op : BitVec 8} : consumerOp op = true ↔ op = 0x03#8 ∨ op = 0x04#8 := by
  simp [consumerOp]

section labels

variable {s : State} {p : Port} {j : Instr} {label : Phase → State → Port → Result}

/-- A busy port takes the step of its phase, of the command it has latched (rules R14, R34). -/
theorem stepPort_of_label (hexec : exec j s = runStep j label s) (hp : s.activePort? = some p) (busy : p.pc ≠ .idle)
    (hj : Instr.ofLatched p.op p.arg = some j) : stepPort s = label p.pc s p := by
  rw [stepPort_latched hp busy hj, hexec, runStep_of_latched hp busy (ofLatched_opcode hj)]

variable (hp : s.activePort? = some p) (busy : p.pc ≠ .idle)
include hp busy

theorem stepPort_put (hop : p.op = 0x01#8) : stepPort s = putLabel p.pc s p :=
  stepPort_of_label (j := .put) rfl hp busy (by rw [hop]; rfl)

theorem stepPort_putb (hop : p.op = 0x02#8) : stepPort s = putbLabel p.pc s p :=
  stepPort_of_label (j := .putb p.arg) rfl hp busy (by rw [hop]; rfl)

theorem stepPort_get (hop : p.op = 0x03#8) : stepPort s = getLabel p.pc s p :=
  stepPort_of_label (j := .get) rfl hp busy (by rw [hop]; rfl)

theorem stepPort_getb (hop : p.op = 0x04#8) : stepPort s = getbLabel p.pc s p :=
  stepPort_of_label (j := .getb p.arg) rfl hp busy (by rw [hop]; rfl)

/-- A producer's step, when the labels of PUT and PUTB answer the same. -/
theorem stepPort_producer {r : Result} (hop : producerOp p.op = true) (hput : p.op = 0x01#8 → putLabel p.pc s p = r)
    (hputb : p.op = 0x02#8 → putbLabel p.pc s p = r) : stepPort s = r := by
  rcases producerOp_iff.mp hop with h | h
  · exact (stepPort_put hp busy h).trans (hput h)
  · exact (stepPort_putb hp busy h).trans (hputb h)

/-- A consumer's step, when the labels of GET and GETB answer the same. -/
theorem stepPort_consumer {r : Result} (hop : consumerOp p.op = true) (hget : p.op = 0x03#8 → getLabel p.pc s p = r)
    (hgetb : p.op = 0x04#8 → getbLabel p.pc s p = r) : stepPort s = r := by
  rcases consumerOp_iff.mp hop with h | h
  · exact (stepPort_get hp busy h).trans (hget h)
  · exact (stepPort_getb hp busy h).trans (hgetb h)

end labels

/-! ### RESERVE (rule R118) -/

/-- How many positions the operation latched asks for at RESERVE: one, or the batch it was admitted with (rules R130, R131,
R140, R141). -/
def Port.demand (p : Port) : U32 := if p.op = 0x02#8 ∨ p.op = 0x04#8 then p.n else 1#32

theorem Port.demand_of_single {p : Port} (h : p.op = 0x01#8 ∨ p.op = 0x03#8) : p.demand = 1#32 := by
  rcases h with h | h <;> simp [Port.demand, h]

theorem Port.demand_of_batch {p : Port} (h : p.op = 0x02#8 ∨ p.op = 0x04#8) : p.demand = p.n := if_pos h

theorem Port.demand_ne_zero {p : Port}
    (h : (p.op = 0x01#8 ∨ p.op = 0x03#8) ∨ (p.op = 0x02#8 ∨ p.op = 0x04#8) ∧ p.n ≠ 0#32) : p.demand ≠ 0#32 := by
  rcases h with h | ⟨h, hn⟩
  · rw [Port.demand_of_single h]; decide
  · rwa [Port.demand_of_batch h]

/-- A cursor that is moved by at least one position is moved: fewer than 2^32 positions never lead back to it. -/
theorem add32_ne_self {c n : U32} (h : n ≠ 0#32) : add32 c n ≠ c := by
  simpa [add32] using h

section reserve

variable {s : State} {p : Port}

theorem stepPort_reserve_producer (hp : s.activePort? = some p) (hpc : p.pc = .reserve) (hop : producerOp p.op = true) :
    stepPort s = reservePut p.demand s p :=
  stepPort_producer hp (by simp [hpc]) hop
    (fun h => by rw [hpc, Port.demand_of_single (.inl h)]; rfl)
    (fun h => by rw [hpc, Port.demand_of_batch (.inl h)]; rfl)

theorem stepPort_reserve_consumer (hp : s.activePort? = some p) (hpc : p.pc = .reserve) (hop : consumerOp p.op = true) :
    stepPort s = reserveGet p.demand s p :=
  stepPort_consumer hp (by simp [hpc]) hop
    (fun h => by rw [hpc, Port.demand_of_single (.inr h)]; rfl)
    (fun h => by rw [hpc, Port.demand_of_batch (.inr h)]; rfl)

/-- The CAS of a producer succeeds on its snapshot (rules R55, R118). -/
theorem reservePut_won (n : U32) (h : s.putc = p.ps) :
    reservePut n s p = .next (State.setPort { s with putc := add32 s.putc n } (p.reserved s.putc)) := by
  simp [reservePut, casPutc, h]

/-- On any other value it fails, and the operation is turned away (rules R118, R162). -/
theorem reservePut_lost (n : U32) (h : s.putc ≠ p.ps) : reservePut n s p = reject s p := by
  simp [reservePut, casPutc, h]

/-- The CAS of a consumer succeeds on its snapshot (rules R55, R118). -/
theorem reserveGet_won (n : U32) (h : s.getc = p.gs) :
    reserveGet n s p = .next (State.setPort { s with getc := add32 s.getc n } (p.reserved s.getc)) := by
  simp [reserveGet, casGetc, h]

/-- On any other value it fails, and the operation is turned away (rules R118, R162). -/
theorem reserveGet_lost (n : U32) (h : s.getc ≠ p.gs) : reserveGet n s p = reject s p := by
  simp [reserveGet, casGetc, h]

end reserve

section turn

variable {s : State} {i : Nat} {p : Port} {ts : List Turn}

/-- The turn that the schedule gives a port. -/
theorem step_of_sched (hs : s.sched = .port i :: ts) : step s = stepPort (turnState s i) :=
  step_of_port (nextTurn_of_sched hs)

/-- The port of this turn has moved the cursor `cursor` by its demand, and holds the positions after the old value
(rules R111, R118). -/
structure ReserveWon (cursor : State → U32) (s t : State) (i : Nat) (p : Port) (ts : List Turn) : Prop where
  sched : t.sched = ts
  ports : t.ports = s.ports.set i (p.reserved (cursor s))
  moved : cursor t = add32 (cursor s) p.demand

theorem step_reserve_producer_won (hs : s.sched = .port i :: ts) (hp : s.ports[i]? = some p) (hpc : p.pc = .reserve)
    (hop : producerOp p.op = true) (hps : s.putc = p.ps) :
    ∃ t, step s = .next t ∧ ReserveWon State.putc s t i p ts := by
  rw [step_of_sched hs, stepPort_reserve_producer (by simpa using hp) hpc hop, reservePut_won _ (by simpa using hps),
    turnState_of_sched hs]
  exact ⟨_, rfl, rfl, rfl, rfl⟩

theorem step_reserve_consumer_won (hs : s.sched = .port i :: ts) (hp : s.ports[i]? = some p) (hpc : p.pc = .reserve)
    (hop : consumerOp p.op = true) (hgs : s.getc = p.gs) :
    ∃ t, step s = .next t ∧ ReserveWon State.getc s t i p ts := by
  rw [step_of_sched hs, stepPort_reserve_consumer (by simpa using hp) hpc hop, reserveGet_won _ (by simpa using hgs),
    turnState_of_sched hs]
  exact ⟨_, rfl, rfl, rfl, rfl⟩

theorem step_reserve_producer_lost (hs : s.sched = .port i :: ts) (hp : s.ports[i]? = some p) (hpc : p.pc = .reserve)
    (hop : producerOp p.op = true) (hps : s.putc ≠ p.ps) : step s = reject (turnState s i) p := by
  rw [step_of_sched hs, stepPort_reserve_producer (by simpa using hp) hpc hop, reservePut_lost _ (by simpa using hps)]

theorem step_reserve_consumer_lost (hs : s.sched = .port i :: ts) (hp : s.ports[i]? = some p) (hpc : p.pc = .reserve)
    (hop : consumerOp p.op = true) (hgs : s.getc ≠ p.gs) : step s = reject (turnState s i) p := by
  rw [step_of_sched hs, stepPort_reserve_consumer (by simpa using hp) hpc hop, reserveGet_lost _ (by simpa using hgs)]

/-- Once a port has won its CAS, a second port whose CAS fails on every value but the old one (`lost`) is turned away: it
writes nothing shared and leaves the winner's record alone (rules R64, R118, R162). -/
theorem ReserveWon.second_turned_away {cursor : State → U32} {t : State} {j : Nat} {q : Port}
    (won : ReserveWon cursor s t i p (.port j :: ts)) (hp : s.ports[i]? = some p) (hq : s.ports[j]? = some q)
    (hij : i ≠ j) (hdemand : p.demand ≠ 0#32)
    (lost : t.sched = .port j :: ts → t.ports[j]? = some q → cursor t ≠ cursor s → step t = reject (turnState t j) q) :
    ∃ t₂ p' q', step t = .next t₂ ∧ sharedSame t t₂ ∧ cursor t ≠ cursor s ∧ t₂.ports[i]? = some p' ∧
      t₂.ports[j]? = some q' ∧ p'.pc = .pollG ∧ p'.pos = add32 (cursor s) 1#32 ∧ q'.pc = .idle ∧
      q'.rsp = ⟨true, false, false, 0#32, q.occ, [], []⟩ := by
  have hne : cursor t ≠ cursor s := by rw [won.moved]; exact add32_ne_self hdemand
  have hi : t.ports[i]? = some (p.reserved (cursor s)) := by
    rw [won.ports, List.getElem?_set_self (List.getElem?_eq_some_iff.mp hp).1]
  have hj : t.ports[j]? = some q := by rw [won.ports, List.getElem?_set_ne hij, hq]
  have turned := queryTurn_setPort (p' := q.respond (Rsp.rejected q.occ)) won.sched hj
  refine ⟨_, p.reserved (cursor s), _, lost won.sched hj hne, turned.shared, hne, ?_, turned.port, rfl, rfl, rfl, rfl⟩
  rw [State.setPort_ports, turnState_ports, turnState_active, List.getElem?_set_ne hij.symm, hi]

end turn

/-! ### POLL_G and POLL_P (rule R121) -/

section poll

variable {s : State} {p : Port}

theorem stepPort_pollG (hp : s.activePort? = some p) (hpc : p.pc = .pollG)
    (hop : producerOp p.op = true ∨ consumerOp p.op = true) : stepPort s = pollG s p := by
  have busy : p.pc ≠ .idle := by simp [hpc]
  rcases hop with hop | hop
  · exact stepPort_producer hp busy hop (fun _ => by rw [hpc]; rfl) (fun _ => by rw [hpc]; rfl)
  · exact stepPort_consumer hp busy hop (fun _ => by rw [hpc]; rfl) (fun _ => by rw [hpc]; rfl)

theorem stepPort_pollP_producer (hp : s.activePort? = some p) (hpc : p.pc = .pollP) (hop : producerOp p.op = true) :
    stepPort s = pollPForWrite s p :=
  stepPort_producer hp (by simp [hpc]) hop (fun _ => by rw [hpc]; rfl) (fun _ => by rw [hpc]; rfl)

theorem stepPort_pollP_consumer (hp : s.activePort? = some p) (hpc : p.pc = .pollP) (hop : consumerOp p.op = true) :
    stepPort s = pollPForRead s p :=
  stepPort_consumer hp (by simp [hpc]) hop (fun _ => by rw [hpc]; rfl) (fun _ => by rw [hpc]; rfl)

/-- The slot is not ready for a port of this family (rules R112, R113). -/
def notReady (cap : U32) (op : BitVec 8) (pos : U32) (sl : Slot) : Prop :=
  (producerOp op = true ∧ readyForWrite sl pos = false) ∨ (consumerOp op = true ∧ readyForRead cap sl pos = false)

theorem notReady.family {cap pos : U32} {op : BitVec 8} {sl : Slot} (h : notReady cap op pos sl) :
    producerOp op = true ∨ consumerOp op = true := h.imp And.left And.left

/-- On the slot's own counters the test of POLL_P is the producer's slot test (rules R112, R121). -/
theorem polledForWrite_counters (sl : Slot) (pos : U32) :
    polledForWrite pos sl.gseq sl.pseq = readyForWrite sl pos := by
  by_cases h : sl.pseq = pos
  · simp [polledForWrite, readyForWrite, h]
  · simp [polledForWrite, readyForWrite, h]

/-- On the slot's own counters the test of POLL_P is the consumer's slot test (rules R113, R121). -/
theorem polledForRead_counters (cap : U32) (sl : Slot) (pos : U32) :
    polledForRead cap pos sl.gseq sl.pseq = readyForRead cap sl pos := rfl

variable {i : Nat} {sl : Slot} {ts : List Turn}

/-- POLL_G samples `GSEQ` (rule R121). -/
theorem step_pollG (hs : s.sched = .port i :: ts) (hp : s.ports[i]? = some p) (hpc : p.pc = .pollG)
    (hop : producerOp p.op = true ∨ consumerOp p.op = true) (hsl : s.slot? (slotIndex s.mask p.pos) = some sl) :
    step s = .next ((turnState s i).setPort { p with sg := sl.gseq, pc := .pollP }) := by
  obtain ⟨hi, rfl⟩ := slot?_eq_some.mp hsl
  rw [step_of_sched hs, stepPort_pollG (by simpa using hp) hpc hop, pollG, withSlot_of_lt _ (by simpa using hi)]
  simp

/-- POLL_P samples `PSEQ`, and on a slot that is not ready, its `GSEQ` as sampled, goes back to POLL_G (rules R68, R121). -/
theorem step_pollP_failed (hs : s.sched = .port i :: ts) (hp : s.ports[i]? = some p) (hpc : p.pc = .pollP)
    (hsl : s.slot? (slotIndex s.mask p.pos) = some sl) (hsg : p.sg = sl.gseq) (hn : notReady s.cap p.op p.pos sl) :
    step s = .next ((turnState s i).setPort { p with sp := sl.pseq, pc := .pollG }) := by
  obtain ⟨hi, rfl⟩ := slot?_eq_some.mp hsl
  rw [step_of_sched hs]
  rcases hn with ⟨hop, hn⟩ | ⟨hop, hn⟩
  · rw [stepPort_pollP_producer (by simpa using hp) hpc hop, pollPForWrite, withSlot_of_lt _ (by simpa using hi)]
    simp [hsg, polledForWrite_counters, hn]
  · rw [stepPort_pollP_consumer (by simpa using hp) hpc hop, pollPForRead, withSlot_of_lt _ (by simpa using hi)]
    simp [hsg, polledForRead_counters, hn]

end poll

/-! ### Positions (rules R110, R122) -/

/-- The next position falls on the next slot, across 2^32 too (rule R122(a)). -/
theorem slotIndex_succ {cap mask : U32} (h : capacityOk cap mask) (pos : U32) :
    slotIndex mask (add32 pos 1#32) = (slotIndex mask pos + 1) % cap.toNat := by
  have e : pos = low pos.toNat := by simp [low]
  rw [e, add32_low, slotIndex_low h, slotIndex_low h, Nat.mod_add_mod]; rfl

end Sys2Proof.Machine
end

section
/-! PROOF. Contention, waiting and wrap-safe positions, settled (20_memory.md rules R52, R64, R68, R69). -/

namespace Sys2Proof.Proofs

open Sys2Proof.Machine Sys2Proof.Safety

/-- Settles O29: the winner moves the cursor off the value that the other's CAS expects. -/
theorem firstCasWins : Obligations.FirstCasWins := by
  intro s i j p q ts hs hij hp hq hpc hqc
  refine ⟨fun hop hqop hps hqs => ?_, fun hop hqop hgs hqs => ?_⟩
  · have hproducer : producerOp p.op = true := producerOp_iff.mpr (hop.imp_right And.left)
    have hdemand : p.demand ≠ 0#32 := Port.demand_ne_zero (hop.imp .inl (And.imp_left .inl))
    obtain ⟨t₁, step₁, won⟩ := step_reserve_producer_won hs hp hpc hproducer hps.symm
    obtain ⟨t₂, p', q', step₂, hshared, hrest⟩ := won.second_turned_away hp hq hij hdemand fun hs₁ hq₁ hne =>
      step_reserve_producer_lost hs₁ hq₁ hqc hqop (by rwa [hqs])
    exact ⟨t₁, t₂, p', q', step₁, step₂, hshared, hrest⟩
  · have hconsumer : consumerOp p.op = true := consumerOp_iff.mpr (hop.imp_right And.left)
    have hdemand : p.demand ≠ 0#32 := Port.demand_ne_zero (hop.imp .inr (And.imp_left .inr))
    obtain ⟨t₁, step₁, won⟩ := step_reserve_consumer_won hs hp hpc hconsumer hgs.symm
    obtain ⟨t₂, p', q', step₂, hshared, hrest⟩ := won.second_turned_away hp hq hij hdemand fun hs₁ hq₁ hne =>
      step_reserve_consumer_lost hs₁ hq₁ hqc hqop (by rwa [hqs])
    exact ⟨t₁, t₂, p', q', step₁, step₂, hshared, hrest⟩

/-- Settles O30: POLL_G and then POLL_P on the same slot, whose record of the port is the old one with the two samples. -/
theorem failedPollOnlySamples : Obligations.FailedPollOnlySamples := by
  intro s i p sl ts hs hp hpc hsl hn
  have hn : notReady s.cap p.op p.pos sl := hn
  have step₁ := step_pollG hs hp hpc hn.family hsl
  have turn₁ := queryTurn_setPort (p' := { p with sg := sl.gseq, pc := .pollP }) hs hp
  have step₂ := step_pollP_failed (sl := sl) turn₁.sched turn₁.port rfl (by simpa [State.slot?] using hsl) rfl
    (by simpa using hn)
  rw [run, step₁]
  dsimp only
  rw [run, step₂]
  dsimp only
  rw [run, turnState_of_sched turn₁.sched, turnState_of_sched hs, ← hpc]
  simp [State.setPort]

/-- Settles O59: the index is the position modulo `CAP`, and `CAP` divides 2^32. -/
theorem positionsAreWrapSafe : Obligations.PositionsAreWrapSafe := fun _ _ pos h =>
  ⟨slotIndex_eq_mod h, slotIndex_lt h, slotIndex_succ h pos, slotIndex_add_cap h pos⟩

end Sys2Proof.Proofs
end

section
/-! PROOF. The decoder of 30_encoding.md: a word is its three fields, what the decoder asks of them, and the rows of the
opcode map by the fields they select (rules R80, R85, R86). -/

namespace Sys2Proof.Laws

/-! ### The fields of a word (rule R80) -/

/-- No bit of a word lies outside `OP`, `RSV` and `ARG`. -/
theorem fields_append (w : BitVec 64) : wordOp w ++ wordRsv w ++ wordArg w = w := by
  have upper : wordOp w ++ wordRsv w = w.extractLsb' 32 32 := BitVec.extractLsb'_append_extractLsb'_eq_extractLsb' rfl
  rw [upper]
  exact BitVec.extractLsb'_append_extractLsb'

theorem word_eq_iff {w v : BitVec 64} :
    w = v ↔ wordOp w = wordOp v ∧ wordRsv w = wordRsv v ∧ wordArg w = wordArg v := by
  refine ⟨fun h => h ▸ ⟨rfl, rfl, rfl⟩, fun ⟨hop, hrsv, harg⟩ => ?_⟩
  rw [← fields_append w, hop, hrsv, harg, fields_append]

theorem wordOp_and (w v : BitVec 64) : wordOp (w &&& v) = wordOp w &&& wordOp v := BitVec.extractLsb'_and
theorem wordRsv_and (w v : BitVec 64) : wordRsv (w &&& v) = wordRsv w &&& wordRsv v := BitVec.extractLsb'_and
theorem wordArg_and (w v : BitVec 64) : wordArg (w &&& v) = wordArg w &&& wordArg v := BitVec.extractLsb'_and

/-! ### The operation a word names (rules R85, R86) -/

theorem argMustBeZero_iff {op : BitVec 8} :
    argMustBeZero op = true ↔
      op = 0x01#8 ∨ op = 0x03#8 ∨ op = 0x05#8 ∨ op = 0x06#8 ∨ op = 0x07#8 := by
  simp [argMustBeZero, or_assoc]

/-- A command whose `ARG` must be 0 has `ARG` 0. -/
theorem arg_eq_zero {i : Instr} (h : argMustBeZero i.opcode = true) : i.arg = 0#32 := by
  cases i
  case putb => cases h
  case getb => cases h
  all_goals rfl

/-- The operation named keeps the `ARG` it is given, where it has an operand. -/
theorem ofLatched_arg {op : BitVec 8} {arg : U32} {i : Instr} (h : Instr.ofLatched op arg = some i)
    (hz : argMustBeZero op = true → arg = 0#32) : arg = i.arg := by
  revert h hz
  fun_cases Instr.ofLatched op arg <;> rintro ⟨⟩ hz
  case case2 => rfl
  case case4 => rfl
  all_goals exact hz (argMustBeZero_iff.mpr (by simp [*]))

/-- The opcodes outside the map (rule R86). -/
theorem ofLatched_eq_none {op : BitVec 8} {arg : U32} :
    Instr.ofLatched op arg = none ↔ op = 0x00#8 ∨ 0x08 ≤ op.toNat := by
  fun_cases Instr.ofLatched op arg
  case case8 => rw [eq_self, true_iff]; bv_omega
  all_goals simp [*]

/-! ### The decoder (rules R85, R86, R91) -/

/-- With `RSV` zero, and `ARG` zero where it must be, a word names what its `OP` and `ARG` name. -/
theorem decode_of_fields {w : BitVec 64} (hrsv : wordRsv w = 0#24)
    (hz : argMustBeZero (wordOp w) = true → wordArg w = 0#32) :
    decode w = Instr.ofLatched (wordOp w) (wordArg w) := by
  rw [decode, if_neg (not_not.mpr hrsv), if_neg]
  simpa using hz

/-- A word decodes to a command exactly when its fields are the command's own (rules R80, R85). -/
theorem decode_eq_some {w : BitVec 64} {i : Instr} :
    decode w = some i ↔ wordOp w = i.opcode ∧ wordRsv w = 0#24 ∧ wordArg w = i.arg := by
  constructor
  · intro h
    unfold decode at h
    split at h
    · cases h
    · rename_i hrsv
      split at h
      · cases h
      · rename_i hz
        have hz : argMustBeZero (wordOp w) = true → wordArg w = 0#32 := by simpa using hz
        exact ⟨Safety.ofLatched_opcode h, not_not.mp hrsv, ofLatched_arg h hz⟩
  · rintro ⟨hop, hrsv, harg⟩
    rw [decode_of_fields hrsv (by rw [hop, harg]; exact arg_eq_zero), hop, harg, Machine.ofLatched_self]

/-- The four reasons for which rule R86 makes a word illegal. -/
def illegalByR86 (w : BitVec 64) : Prop :=
  wordOp w = 0x00#8 ∨ 0x08 ≤ (wordOp w).toNat ∨ wordRsv w ≠ 0#24 ∨
    ((wordOp w = 0x01#8 ∨ wordOp w = 0x03#8 ∨ wordOp w = 0x05#8 ∨ wordOp w = 0x06#8 ∨ wordOp w = 0x07#8) ∧
      wordArg w ≠ 0#32)

/-- The decoder refuses a word for these reasons and no other. -/
theorem decode_eq_none {w : BitVec 64} : decode w = none ↔ illegalByR86 w := by
  rw [illegalByR86, ← argMustBeZero_iff]
  by_cases hrsv : wordRsv w = 0#24
  · by_cases hz : argMustBeZero (wordOp w) = true → wordArg w = 0#32
    · rw [decode_of_fields hrsv hz, ofLatched_eq_none]
      tauto
    · simp only [Classical.not_imp] at hz
      simp [decode, hz]
  · simp [decode, hrsv]

/-- A reason is named for these words and no other. -/
theorem illegalWord_ne_none {w : BitVec 64} : illegalWord w ≠ none ↔ illegalByR86 w := by
  rw [illegalByR86, ← argMustBeZero_iff, ← or_assoc]
  fun_cases illegalWord w <;> simp_all

/-! ### The opcode map (rule R85) -/

/-- Row by row: the pattern is `OP` with `RSV` and `ARG` zero; the mask looks at all of `OP` and `RSV`, and at `ARG` where it
must be zero. -/
theorem opcodeMap_fields : ∀ r ∈ opcodeMap,
    (wordOp r.pattern = r.op ∧ wordRsv r.pattern = 0#24 ∧ wordArg r.pattern = 0#32) ∧
    wordOp r.mask = BitVec.allOnes 8 ∧ wordRsv r.mask = BitVec.allOnes 24 ∧
      wordArg r.mask = if argMustBeZero r.op then BitVec.allOnes 32 else 0#32 := by
  decide

/-- What a row asks of the fields of a word. -/
theorem selectedBy_iff {r : OpcodeRow} (hr : r ∈ opcodeMap) {w : BitVec 64} :
    r.selectedBy w = true ↔
      wordOp w = r.op ∧ wordRsv w = 0#24 ∧ (argMustBeZero r.op = true → wordArg w = 0#32) := by
  obtain ⟨⟨hpop, hprsv, hparg⟩, hmop, hmrsv, hmarg⟩ := opcodeMap_fields r hr
  rw [OpcodeRow.selectedBy, decide_eq_true_iff, word_eq_iff, wordOp_and, wordRsv_and, wordArg_and, hpop, hprsv, hparg,
    hmop, hmrsv, hmarg, BitVec.and_allOnes, BitVec.and_allOnes]
  by_cases hz : argMustBeZero r.op = true
  · rw [if_pos hz, BitVec.and_allOnes]; simp [hz]
  · simp [hz]

/-- Every command has its row. -/
theorem exists_row (i : Instr) : ∃ r ∈ opcodeMap, r.op = i.opcode := by
  cases i <;> simp [opcodeMap, Instr.opcode]

/-- No row has an opcode that names no operation (rule R86). -/
theorem opcodeMap_opcode_legal : ∀ r ∈ opcodeMap, ¬ (r.op = 0x00#8 ∨ 0x08 ≤ r.op.toNat) := by decide

/-- A row is known by its `OP`. -/
theorem opcodeMap_inj : ∀ r ∈ opcodeMap, ∀ r' ∈ opcodeMap, r.op = r'.op → r = r' := by decide

/-- A word is legal exactly when a row selects it (rules R85, R86). -/
theorem decode_ne_none_iff {w : BitVec 64} : decode w ≠ none ↔ ∃ r ∈ opcodeMap, r.selectedBy w = true := by
  constructor
  · intro h
    obtain ⟨i, hi⟩ := Option.ne_none_iff_exists'.mp h
    obtain ⟨hop, hrsv, harg⟩ := decode_eq_some.mp hi
    obtain ⟨r, hr, hri⟩ := exists_row i
    exact ⟨r, hr, (selectedBy_iff hr).mpr ⟨hop.trans hri.symm, hrsv, fun hz => harg.trans (arg_eq_zero (hri ▸ hz))⟩⟩
  · rintro ⟨r, hr, hsel⟩
    obtain ⟨hop, hrsv, hz⟩ := (selectedBy_iff hr).mp hsel
    rw [decode_of_fields hrsv (by rwa [hop]), Ne, ofLatched_eq_none, hop]
    exact opcodeMap_opcode_legal r hr

end Sys2Proof.Laws
end

section
/-! PROOF. What an idle port answers to the word presented (rules R86, R91, R92, R163). -/

namespace Sys2Proof.Machine

open Sys2Proof.Safety

section presented

variable {s t : State} {i : Nat} {p p' : Port} {c : Command} {cs : List Command} {ts : List Turn} {j : Instr}

/-- The record latched, in the fields of the word presented (rule R91). -/
theorem issued_eq (hcmds : p.cmds = c :: cs) (hd : decode c.word = some j) :
    p.issued j =
      { p with
        rsp := { p.rsp with rv := false }, op := wordOp c.word, arg := wordArg c.word
        inItems := c.lane.take j.itemsDemanded, outItems := [], cmds := cs
        pc := if wordOp c.word = 0x06#8 then .capq else .snapG } := by
  obtain ⟨hop, -, harg⟩ := Laws.decode_eq_some.mp hd
  rw [Port.issued, hop, harg, hcmds]
  rfl

/-- The turn that answers a word as illegal, because it is or because the block refused its construction (rules R42,
R163). -/
theorem step_raiseIllegal (hs : s.sched = .port i :: ts) (hp : s.ports[i]? = some p) (hpc : p.pc = .idle)
    (hcmds : p.cmds = c :: cs) (h : decode c.word = none ∨ s.cfgErr = true) :
    step s = .next (raiseIllegal (turnState s i) p) := by
  have hact : (turnState s i).activePort? = some p := by simpa using hp
  rw [step_of_sched hs]
  rcases h with hd | hc
  · exact stepPort_illegal hact hpc hcmds hd
  · exact stepPort_refused hact hpc hcmds (by simpa using hc)

/-- A busy port never raises `ILL` (rules R86, R163): it keeps its response, or answers with `ILL = 0`. -/
theorem portMove_ill (h : PortMove s p t) (busy : p.pc ≠ .idle) :
    ∃ p', t.ports = s.ports.set s.active p' ∧ (p'.rsp.ill = p.rsp.ill ∨ p'.rsp.ill = false) := by
  cases h
  case refused hpc => exact absurd hpc busy
  case issued hpc _ => exact absurd hpc busy
  case rejected => exact ⟨_, rfl, .inr rfl⟩
  case rejectedBatch => exact ⟨_, rfl, .inr rfl⟩
  case answeredOcc => exact ⟨_, rfl, .inr rfl⟩
  case answeredStat => exact ⟨_, rfl, .inr rfl⟩
  case answeredCap => exact ⟨_, rfl, .inr rfl⟩
  case contended => exact ⟨_, rfl, .inr rfl⟩
  case publishedLast => exact ⟨_, rfl, .inr rfl⟩
  case releasedLast => exact ⟨_, rfl, .inr rfl⟩
  all_goals exact ⟨_, rfl, .inl rfl⟩

/-- `ILL` goes from 0 to 1 only where an idle port answers a word as illegal (rules R86, R163). -/
theorem illegal_of_ill_raised (hs : s.sched = .port i :: ts) (hp : s.ports[i]? = some p) (h : step s = .next t)
    (hp' : t.ports[i]? = some p') (before : p.rsp.ill = false) (after : p'.rsp.ill = true) :
    p.pc = .idle ∧ ∃ c cs, p.cmds = c :: cs ∧ (decode c.word = none ∨ s.cfgErr = true) := by
  have changed : p'.rsp.ill ≠ p.rsp.ill := by simp [before, after]
  by_cases hpc : p.pc = .idle
  · refine ⟨hpc, ?_⟩
    cases hcmds : p.cmds with
    | nil =>
      rw [step_of_sched hs, stepPort_waiting (by simpa using hp) hpc hcmds] at h
      cases h
      rw [turnState_ports, hp] at hp'
      cases hp'
      exact absurd rfl changed
    | cons c cs =>
      refine ⟨c, cs, rfl, ?_⟩
      by_contra hlegal
      obtain ⟨hd, hc⟩ := not_or.mp hlegal
      obtain ⟨j, hj⟩ := Option.ne_none_iff_exists'.mp hd
      obtain ⟨t', step', turn⟩ := queryTurn_issue hs hp (by simpa using hc) hpc hcmds hj
      rw [h] at step'
      cases step'
      rw [turn.port] at hp'
      cases hp'
      exact changed rfl
  · rcases step_of_turn (nextTurn_of_sched hs) hp h with ⟨hidle, -⟩ | hm
    · exact absurd hidle hpc
    · obtain ⟨q, hq, hill⟩ := portMove_ill hm hpc
      obtain rfl := eq_of_ports_set (by simpa using hp) hq hp'
      rcases hill with hill | hill
      · exact absurd hill changed
      · rw [after] at hill; cases hill

end presented

end Sys2Proof.Machine
end

section
/-! PROOF. The encoding, the opcode map and the word an idle port samples, settled (30_encoding.md rules R80 to R92, R163). -/

namespace Sys2Proof.Proofs

open Sys2Proof.Machine Sys2Proof.Safety

/-- Settles O1: the encoded word has the fields of its command, and the decoder asks for no more. -/
theorem decodeOfEncode : Obligations.DecodeOfEncode := fun i => Laws.decode_eq_some.mpr (Laws.encodedFields i)

/-- Settles O2: the word and the command's own word agree in all three fields, and a word is its fields. -/
theorem encodeOfDecode : Obligations.EncodeOfDecode := by
  intro w i h
  obtain ⟨hop, hrsv, harg⟩ := Laws.decode_eq_some.mp h
  obtain ⟨hop', hrsv', harg'⟩ := Laws.encodedFields i
  exact Laws.word_eq_iff.mpr ⟨hop'.trans hop.symm, hrsv'.trans hrsv.symm, harg'.trans harg.symm⟩

/-- Settles O3: both the decoder and the namer of reasons test the conditions of rule R86. -/
theorem illegalWordsAreThoseOfR86 : Obligations.IllegalWordsAreThoseOfR86 := fun _ =>
  ⟨Laws.decode_eq_none, Laws.decode_eq_none.trans Laws.illegalWord_ne_none.symm⟩

/-- Settles O4: a row selects by the same fields that the decoder reads. -/
theorem opcodeMapAgreesWithDecoder : Obligations.OpcodeMapAgreesWithDecoder := by
  intro w
  refine ⟨Laws.decode_ne_none_iff, fun i r hd hr hsel => ?_, fun r hr r' hr' hsel hsel' => ?_⟩
  · obtain ⟨hop, -, harg⟩ := Laws.decode_eq_some.mp hd
    obtain ⟨hrop, -, -⟩ := (Laws.selectedBy_iff hr).mp hsel
    refine ⟨hrop.symm.trans hop, ?_⟩
    cases i
    case putb => exact harg.symm
    case getb => exact harg.symm
    all_goals rfl
  · obtain ⟨hrop, -, -⟩ := (Laws.selectedBy_iff hr).mp hsel
    obtain ⟨hrop', -, -⟩ := (Laws.selectedBy_iff hr').mp hsel'
    exact Laws.opcodeMap_inj r hr r' hr' (hrop.symm.trans hrop')

/-- Settles O5: the decoder evaluated on each of the eighteen words. -/
theorem decodingVectors : Obligations.DecodingVectors := by
  unfold Obligations.DecodingVectors
  decide

/-- Settles O8: on an idle port `exec` is the issue step, and the fields latched are the word's. -/
theorem issueFollowsR91 : Obligations.IssueFollowsR91 := by
  intro j s p c cs hp hpc hcmds hd
  refine ⟨fun hc => ?_, fun hc => ?_⟩
  · rw [exec_of_idle hp hpc, issue_refused hc, raiseIllegal, hcmds]
    rfl
  · rw [exec_of_idle hp hpc, issue_legal hc, issued_eq hcmds hd]

/-- Settles O9: an idle port either raises the illegal answer or issues; a busy one keeps what is presented. -/
theorem everyPresentedWordHasOneOutcome : Obligations.EveryPresentedWordHasOneOutcome := by
  intro s i ts p c cs hs hp hcmds
  refine ⟨fun hpc => ?_, fun hpc t p' h hp' => ?_⟩
  · by_cases hill : decode c.word = none ∨ s.cfgErr = true
    · have turn := queryTurn_setPort (p' := { p with rsp := Rsp.illegal, cmds := p.cmds.tail }) hs hp
      exact ⟨_, _, step_raiseIllegal hs hp hpc hcmds hill, turn.port, by rw [hcmds]; rfl, turn.shared,
        .inl ⟨hill, hpc, rfl⟩⟩
    · obtain ⟨hd, hc⟩ := not_or.mp hill
      have hc : s.cfgErr = false := by simpa using hc
      obtain ⟨j, hj⟩ := Option.ne_none_iff_exists'.mp hd
      obtain ⟨t, step', turn⟩ := queryTurn_issue hs hp hc hpc hcmds hj
      rw [issued_eq hcmds hj] at turn
      refine ⟨t, _, step', turn.port, rfl, turn.shared, .inr ⟨hd, hc, ?_, rfl, rfl, rfl⟩⟩
      dsimp only
      split <;> simp
  · rcases step_of_turn (nextTurn_of_sched hs) hp h with ⟨hidle, -⟩ | hm
    · exact absurd hidle hpc
    · obtain ⟨q, hq, kept⟩ := portMove_registers hm
      obtain rfl := eq_of_ports_set (by simpa using hp) hq hp'
      obtain ⟨-, -, -, hcs⟩ := kept.latched hpc
      exact hcs

/-- Settles O10: the turn that raises it, written out, and no other turn does. -/
theorem illegalWordOnlyAnswers : Obligations.IllegalWordOnlyAnswers := by
  intro s i ts p hs hp
  refine ⟨fun c cs hpc hcmds hill => ?_, fun t p' h hp' => illegal_of_ill_raised hs hp h hp'⟩
  rw [step_raiseIllegal hs hp hpc hcmds hill, raiseIllegal, hcmds, turnState_of_sched hs]
  rfl

end Sys2Proof.Proofs
end

section
/-! PROOF. The smearing of rule R101 computes the ceiling logarithm, so `norm` is the least power of two (rules R100 to R102). -/

namespace Sys2Proof.Safety

open Sys2Proof.Machine

/-- The highest bit of `n - 1`, which rule R101 smears, sits one below the ceiling logarithm of `n`. -/
theorem log2_pred_add_one {n : Nat} (hn : 1 < n) : (n - 1).log2 + 1 = Nat.clog 2 n := by
  refine eq_of_forall_ge_iff fun j => ?_
  rw [Nat.clog_le_iff_le_pow Nat.one_lt_two, Nat.add_one_le_iff, Nat.log2_lt (by omega)]
  omega

theorem clog_request_le {r : U32} (hr : r.toNat ≤ 0x80000000) : Nat.clog 2 r.toNat ≤ 31 :=
  Nat.clog_le_of_le_pow (show r.toNat ≤ 2 ^ 31 from hr)

/-- A legal request is rounded up to the next power of two (rules R100, R102). -/
theorem norm_eq_two_pow_clog {r : U32} (hr : r.toNat ≤ 0x80000000) : (norm r).toNat = 2 ^ Nat.clog 2 r.toNat := by
  by_cases h1 : r.toNat ≤ 1
  · rw [Nat.clog_of_right_le_one h1, Machine.norm, if_pos h1]
    rfl
  · have hj := clog_request_le hr
    rw [norm_toNat (by omega), log2_pred_add_one (by omega),
      Nat.mod_eq_of_lt (Nat.pow_lt_pow_right Nat.one_lt_two (by omega))]

end Sys2Proof.Safety

namespace Sys2Proof.Proofs

open Sys2Proof.Machine Sys2Proof.Safety

/-- Settles O11: the exponent is the ceiling logarithm, which lies below every `j'` whose power reaches `r`. -/
theorem normIsLeastPowerOfTwo : Obligations.NormIsLeastPowerOfTwo := fun r hr =>
  ⟨Nat.clog 2 r.toNat, clog_request_le hr, norm_eq_two_pow_clog hr, Nat.le_pow_clog Nat.one_lt_two _,
    fun _ => Nat.clog_le_of_le_pow⟩

end Sys2Proof.Proofs
end

section
/-! PROOF. The shared steps of the slot protocol and the admissions of the four commands, as equations between the step and
its answer (rules R119 to R124, R130, R131, R140, R141). -/

namespace Sys2Proof.Machine

open Sys2Proof.Safety

section equations

variable {s : State} {p : Port} {sl : Slot}

/-! ### Inside a command -/

section busy

variable {pc : Phase} (hp : s.activePort? = some p) (hpc : p.pc = pc) (busy : pc ≠ .idle)
include hp hpc busy

/-- The step of the phase, of PUT (rules R14, R34, R130). -/
theorem exec_put_at (hop : p.op = 0x01#8) : exec .put s = putLabel pc s p :=
  (runStep_of_latched (j := .put) hp (by rwa [hpc]) hop).trans (by rw [hpc])

/-- The step of the phase, of PUTB, whatever count it is called with (rules R14, R34, R131). -/
theorem exec_putb_at (a : U32) (hop : p.op = 0x02#8) : exec (.putb a) s = putbLabel pc s p :=
  (runStep_of_latched (j := .putb a) hp (by rwa [hpc]) hop).trans (by rw [hpc])

/-- The step of the phase, of GET (rules R14, R34, R140). -/
theorem exec_get_at (hop : p.op = 0x03#8) : exec .get s = getLabel pc s p :=
  (runStep_of_latched (j := .get) hp (by rwa [hpc]) hop).trans (by rw [hpc])

/-- The step of the phase, of GETB, whatever count it is called with (rules R14, R34, R141). -/
theorem exec_getb_at (a : U32) (hop : p.op = 0x04#8) : exec (.getb a) s = getbLabel pc s p :=
  (runStep_of_latched (j := .getb a) hp (by rwa [hpc]) hop).trans (by rw [hpc])

end busy

/-! ### SNAP_P (rules R119, R120): the estimate admits or rejects -/

/-- FULL (rule R130(a)). -/
theorem putSnapP_full (h : s.cap.toNat - 1 ≤ (est s.cap p.gs s.putc).toNat) :
    putSnapP s p = reject s (p.snapshot s) :=
  if_pos (decide_eq_true (by rw [Port.snapshot_occ, Config.putGuard]; omega))

/-- Not FULL (rule R130(a)). -/
theorem putSnapP_admitted (h : (est s.cap p.gs s.putc).toNat < s.cap.toNat - 1) :
    putSnapP s p = goReserve s (p.snapshot s) 1#32 :=
  if_neg fun hf => by
    have full := of_decide_eq_true hf
    rw [Port.snapshot_occ, Config.putGuard] at full
    omega

/-- EMPTY (rule R140(a)). -/
theorem getSnapP_empty (h : est s.cap p.gs s.putc = 0#32) : getSnapP s p = reject s (p.snapshot s) :=
  if_pos (by simp [h])

/-- Not EMPTY (rule R140(a)). -/
theorem getSnapP_admitted (h : est s.cap p.gs s.putc ≠ 0#32) : getSnapP s p = goReserve s (p.snapshot s) 1#32 :=
  if_neg (Nat.not_lt.mpr (ne_zero_toNat h))

/-- The count of PUTB is determined by its number (rule R131). -/
theorem eq_putbCount {cap arg occ n : U32} (hle : occ.toNat ≤ cap.toNat)
    (h : n.toNat = min arg.toNat (cap.toNat - occ.toNat)) : n = putbCount cap arg occ :=
  BitVec.eq_of_toNat_eq (h.trans (putbCount_toNat hle).symm)

/-- NOFIT (rule R131(g)). -/
theorem putbSnapP_none (h : putbCount s.cap p.arg (est s.cap p.gs s.putc) = 0#32) :
    putbSnapP s p = reject s { p.snapshot s with n := 0#32 } := if_pos h

/-- As many of the items offered as the estimate leaves room for (rule R131). -/
theorem putbSnapP_admitted (h : putbCount s.cap p.arg (est s.cap p.gs s.putc) ≠ 0#32) :
    putbSnapP s p = goReserve s (p.snapshot s) (putbCount s.cap p.arg (est s.cap p.gs s.putc)) := if_neg h

/-- The count of GETB is determined by its number (rule R141). -/
theorem eq_getbCount {arg occ n : U32} (h : n.toNat = min arg.toNat occ.toNat) : n = getbCount arg occ :=
  BitVec.eq_of_toNat_eq (h.trans (getbCount_toNat arg occ).symm)

/-- EMPTY, or none asked for (rule R141(d)). -/
theorem getbSnapP_none (h : getbCount p.arg (est s.cap p.gs s.putc) = 0#32) :
    getbSnapP s p = reject s { p.snapshot s with n := 0#32 } := if_pos h

/-- As many of the items asked for as the estimate finds (rule R141). -/
theorem getbSnapP_admitted (h : getbCount p.arg (est s.cap p.gs s.putc) ≠ 0#32) :
    getbSnapP s p = goReserve s (p.snapshot s) (getbCount p.arg (est s.cap p.gs s.putc)) := if_neg h

/-! ### The handshakes (rules R121, R123, R124), on the slot of `x[pos]` -/

section slot

variable (hsl : s.slot? (slotIndex s.mask p.pos) = some sl)
include hsl

theorem withSlot_of_some (f : Nat → Slot → Result) : withSlot s p f = f (slotIndex s.mask p.pos) sl := by
  simp [withSlot, hsl]

theorem pollG_of_slot : pollG s p = .next (s.setPort { p with sg := sl.gseq, pc := .pollP }) :=
  withSlot_of_some hsl _

theorem pollPForWrite_of_slot : pollPForWrite s p = .next (s.setPort
    { p with sp := sl.pseq, pc := if sl.pseq = p.pos ∧ p.sg = sl.pseq then .xfer else .pollG }) :=
  (withSlot_of_some hsl _).trans (by simp [polledForWrite])

theorem pollPForRead_of_slot : pollPForRead s p = .next (s.setPort
    { p with sp := sl.pseq, pc := if p.sg = p.pos ∧ sl.pseq = add32 p.pos s.cap then .xfer else .pollG }) :=
  (withSlot_of_some hsl _).trans (by simp [polledForRead])

theorem xferWrite_of_slot (k : Nat) : xferWrite k s p = .next
    ((s.setSlot (slotIndex s.mask p.pos) (sl.withVal (some (itemAt p.inItems k)))).setPort { p with pc := .publish }) :=
  withSlot_of_some hsl _

theorem xferRead_of_full {d : Item} (hd : sl.val = some d) (before : List Item) : xferRead before s p =
    .next (s.setPort { p with outItems := before ++ [d], pc := .clear }) :=
  (withSlot_of_some hsl _).trans (by simp [hd])

/-- A consumer's XFER takes no value from an empty slot (rule R124, U6). -/
theorem xferRead_of_empty (hd : sl.val = none) (before : List Item) :
    xferRead before s p = .fault (.emptySlotRead p.pos) :=
  (withSlot_of_some hsl _).trans (by simp [hd])

theorem clearSlot_of_slot : clearSlot s p = .next
    ((s.setSlot (slotIndex s.mask p.pos) (sl.withVal none)).setPort { p with pc := .publish }) :=
  withSlot_of_some hsl _

theorem publishPut_of_slot (p' : Port) : publishPut p' s p =
    .next ((s.setSlot (slotIndex s.mask p.pos) (sl.addPseq s.cap)).setPort p') :=
  withSlot_of_some hsl _

theorem publishGet_of_slot (p' : Port) : publishGet p' s p =
    .next ((s.setSlot (slotIndex s.mask p.pos) (sl.addGseq s.cap)).setPort p') :=
  withSlot_of_some hsl _

/-- PUBLISH of PUTB with a further item (rule R123). -/
theorem putbPublish_more (h : p.k.toNat + 1 < p.n.toNat) : putbPublish s p =
    .next ((s.setSlot (slotIndex s.mask p.pos) (sl.addPseq s.cap)).setPort p.nextItem) := by
  rw [putbPublish, moreItems, if_pos (decide_eq_true h)]
  exact publishPut_of_slot hsl _

/-- PUBLISH of PUTB with its last item (rule R131). -/
theorem putbPublish_last (h : ¬ p.k.toNat + 1 < p.n.toNat) : putbPublish s p =
    .next ((s.setSlot (slotIndex s.mask p.pos) (sl.addPseq s.cap)).setPort
      (p.respond (Rsp.answer true p.n (add32 p.occ p.n) [] []))) := by
  rw [putbPublish, moreItems, if_neg (by simpa using h)]
  exact publishPut_of_slot hsl _

/-- PUBLISH of GETB with a further item (rule R124). -/
theorem getbPublish_more (h : p.k.toNat + 1 < p.n.toNat) : getbPublish s p =
    .next ((s.setSlot (slotIndex s.mask p.pos) (sl.addGseq s.cap)).setPort p.nextItem) := by
  rw [getbPublish, moreItems, if_pos (decide_eq_true h)]
  exact publishGet_of_slot hsl _

/-- PUBLISH of GETB with its last item (rule R141). -/
theorem getbPublish_last (h : ¬ p.k.toNat + 1 < p.n.toNat) : getbPublish s p =
    .next ((s.setSlot (slotIndex s.mask p.pos) (sl.addGseq s.cap)).setPort
      (p.respond (Rsp.answer true p.n (sub32 p.occ p.n) p.outItems []))) := by
  rw [getbPublish, moreItems, if_neg (by simpa using h)]
  exact publishGet_of_slot hsl _

end slot

/-! ### RESERVE (rule R118), in the terms of the port's own snapshot -/

theorem reservePut_of_snapshot (n : U32) (h : s.putc = p.ps) : reservePut n s p =
    .next (State.setPort { s with putc := add32 p.ps n } (p.reserved p.ps)) := by
  rw [reservePut_won n h, h]

theorem reserveGet_of_snapshot (n : U32) (h : s.getc = p.gs) : reserveGet n s p =
    .next (State.setPort { s with getc := add32 p.gs n } (p.reserved p.gs)) := by
  rw [reserveGet_won n h, h]

end equations

end Sys2Proof.Machine
end

section
/-! PROOF. The steps of PUT, PUTB, GET, GETB and OCC, settled (rules R118 to R124, R130, R131, R140, R141, R150). -/

namespace Sys2Proof.Proofs

open Sys2Proof.Machine Sys2Proof.Safety

/-- Settles O15: phase by phase, the equation of the phase's step. -/
theorem putFollowsItsSteps : Obligations.PutFollowsItsSteps := by
  intro s p hp hop
  have at_phase {pc} (hpc : p.pc = pc) (busy : pc ≠ .idle := by decide) : exec .put s = putLabel pc s p :=
    exec_put_at hp hpc busy hop
  refine ⟨fun hpc => exec_snapG hp hpc hop (by decide), fun hpc occ hocc => ?_, fun hpc => ⟨fun hps => ?_, fun hps => ?_⟩,
    fun sl hsl => ⟨fun hpc => ?_, fun hpc => ?_, fun hpc => ?_, fun hpc => ?_⟩⟩
  · obtain rfl := eq_est hocc
    exact ⟨fun h => (at_phase hpc).trans (putSnapP_full h),
      fun h => (at_phase hpc).trans (putSnapP_admitted h)⟩
  · exact (at_phase hpc).trans (reservePut_of_snapshot _ hps)
  · exact (at_phase hpc).trans (reservePut_lost _ hps)
  · exact (at_phase hpc).trans (pollG_of_slot hsl)
  · exact (at_phase hpc).trans (pollPForWrite_of_slot hsl)
  · exact (at_phase hpc).trans (xferWrite_of_slot hsl 0)
  · exact (at_phase hpc).trans (publishPut_of_slot hsl _)

/-- Settles O16: phase by phase, the equation of the phase's step. -/
theorem putbFollowsItsSteps : Obligations.PutbFollowsItsSteps := by
  intro s p a hp hop
  have at_phase {pc} (hpc : p.pc = pc) (busy : pc ≠ .idle := by decide) : exec (.putb a) s = putbLabel pc s p :=
    exec_putb_at hp hpc busy a hop
  refine ⟨fun hpc => (at_phase hpc).trans rfl, fun hpc occ n hocc hn => ?_,
    fun hpc => ⟨fun hps => ?_, fun hps => ?_⟩,
    fun sl hsl => ⟨fun hpc => ?_, fun hpc => ?_, fun hpc => ?_, fun hpc => ⟨fun hk => ?_, fun hk => ?_⟩⟩⟩
  · obtain rfl := eq_est hocc
    obtain rfl := eq_putbCount (est_le s.cap p.gs s.putc) hn
    exact ⟨fun h => (at_phase hpc).trans (putbSnapP_none h),
      fun h => (at_phase hpc).trans (putbSnapP_admitted h)⟩
  · exact (at_phase hpc).trans (reservePut_of_snapshot _ hps)
  · exact (at_phase hpc).trans (reservePut_lost _ hps)
  · exact (at_phase hpc).trans (pollG_of_slot hsl)
  · exact (at_phase hpc).trans (pollPForWrite_of_slot hsl)
  · exact (at_phase hpc).trans (xferWrite_of_slot hsl _)
  · exact (at_phase hpc).trans (putbPublish_more hsl hk)
  · exact (at_phase hpc).trans (putbPublish_last hsl (Nat.not_lt.mpr hk))

/-- Settles O17: phase by phase, the equation of the phase's step. -/
theorem getFollowsItsSteps : Obligations.GetFollowsItsSteps := by
  intro s p hp hop
  have at_phase {pc} (hpc : p.pc = pc) (busy : pc ≠ .idle := by decide) : exec .get s = getLabel pc s p :=
    exec_get_at hp hpc busy hop
  refine ⟨fun hpc => exec_snapG hp hpc hop (by decide), fun hpc occ hocc => ?_, fun hpc => ⟨fun hgs => ?_, fun hgs => ?_⟩,
    fun sl hsl => ⟨fun hpc => ?_, fun hpc => ?_, fun hpc d hd => ?_, fun hpc => ?_, fun hpc => ?_⟩⟩
  · obtain rfl := eq_est hocc
    exact ⟨fun h => (at_phase hpc).trans (getSnapP_empty h),
      fun h => (at_phase hpc).trans (getSnapP_admitted h)⟩
  · exact (at_phase hpc).trans (reserveGet_of_snapshot _ hgs)
  · exact (at_phase hpc).trans (reserveGet_lost _ hgs)
  · exact (at_phase hpc).trans (pollG_of_slot hsl)
  · exact (at_phase hpc).trans (pollPForRead_of_slot hsl)
  · exact (at_phase hpc).trans (xferRead_of_full hsl hd [])
  · exact (at_phase hpc).trans (clearSlot_of_slot hsl)
  · exact (at_phase hpc).trans (publishGet_of_slot hsl _)

/-- Settles O18: phase by phase, the equation of the phase's step. -/
theorem getbFollowsItsSteps : Obligations.GetbFollowsItsSteps := by
  intro s p a hp hop
  have at_phase {pc} (hpc : p.pc = pc) (busy : pc ≠ .idle := by decide) : exec (.getb a) s = getbLabel pc s p :=
    exec_getb_at hp hpc busy a hop
  refine ⟨fun hpc => (at_phase hpc).trans rfl, fun hpc occ n hocc hn => ?_,
    fun hpc => ⟨fun hgs => ?_, fun hgs => ?_⟩,
    fun sl hsl => ⟨fun hpc => ?_, fun hpc => ?_, fun hpc d hd => ?_, fun hpc => ?_,
      fun hpc => ⟨fun hk => ?_, fun hk => ?_⟩⟩⟩
  · obtain rfl := eq_est hocc
    obtain rfl := eq_getbCount hn
    exact ⟨fun h => (at_phase hpc).trans (getbSnapP_none h),
      fun h => (at_phase hpc).trans (getbSnapP_admitted h)⟩
  · exact (at_phase hpc).trans (reserveGet_of_snapshot _ hgs)
  · exact (at_phase hpc).trans (reserveGet_lost _ hgs)
  · exact (at_phase hpc).trans (pollG_of_slot hsl)
  · exact (at_phase hpc).trans (pollPForRead_of_slot hsl)
  · exact (at_phase hpc).trans (xferRead_of_full hsl hd _)
  · exact (at_phase hpc).trans (clearSlot_of_slot hsl)
  · exact (at_phase hpc).trans (getbPublish_more hsl hk)
  · exact (at_phase hpc).trans (getbPublish_last hsl (Nat.not_lt.mpr hk))

/-- Settles O19: the step of each phase. -/
theorem occFollowsItsSteps : Obligations.OccFollowsItsSteps := by
  intro s p hp hop
  refine ⟨fun hpc => exec_snapG hp hpc hop (by decide), fun hpc occ hocc => ?_⟩
  rw [eq_est hocc]
  exact exec_occ_snapP hp hpc hop

/-- Settles O22: both commands read the slot by the same step. -/
theorem emptySlotReadFaults : Obligations.EmptySlotReadFaults := fun _ _ _ a hp hpc hsl hd =>
  ⟨fun hop => (exec_get_at hp hpc (by decide) hop).trans (xferRead_of_empty hsl hd _),
    fun hop => (exec_getb_at hp hpc (by decide) a hop).trans (xferRead_of_empty hsl hd _)⟩

end Sys2Proof.Proofs
end

section
/-! PROOF. Reported occupancies and accepted reservations (rules R120, R130, R131, R140, R141, R176(b)). -/

namespace Sys2Proof.Safety

open Sys2Proof.Machine

/-! ### No readable response reports an occupancy above `CAP` -/

/-- What `estimatesOk` says of one port. -/
structure EstimateOk (cap : U32) (p : Port) : Prop where
  reported : p.rsp.rv = true → p.rsp.occ.toNat ≤ cap.toNat
  admitted : p.pc = .reserve ∨ Port.holding p = true → p.occ.toNat ≤ cap.toNat ∧ admissionOk cap p

theorem estimatesOk_iff {s : State} : estimatesOk s ↔ ∀ p ∈ s.ports, EstimateOk s.cap p :=
  forall₂_congr fun _ _ => ⟨fun ⟨h₁, h₂⟩ => ⟨h₁, h₂⟩, fun ⟨h₁, h₂⟩ => ⟨h₁, h₂⟩⟩

section estimate

variable {cap : U32} {p p' : Port}

/-- A port that answers and goes to IDLE has nothing left to report but its answer (rule R13). -/
theorem estimateOk_respond {r : Rsp} (h : r.occ.toNat ≤ cap.toNat) : EstimateOk cap (p.respond r) :=
  ⟨fun _ => h, by simp [Port.holding]⟩

/-- A port that goes on inside an admitted operation keeps its response, its operation and its counts. -/
theorem EstimateOk.goesOn (h : EstimateOk cap p) (hpc : p.pc = .reserve ∨ Port.holding p = true)
    (hrsp : p'.rsp = p.rsp) (hop : p'.op = p.op) (hocc : p'.occ = p.occ) (hn : p'.n = p.n) : EstimateOk cap p' := by
  refine ⟨by rw [hrsp]; exact h.reported, fun _ => ?_⟩
  rw [admissionOk, hop, hocc, hn]
  exact h.admitted hpc

/-- The estimate and the count of a producer together stay within `CAP` (rules R130, R131). -/
theorem EstimateOk.put_le {n : U32} (h : EstimateOk cap p) (hpc : Port.holding p = true)
    (hop : (p.op = 0x01#8 ∧ n = 1#32) ∨ (p.op = 0x02#8 ∧ n = p.n)) : (add32 p.occ n).toNat ≤ cap.toNat := by
  obtain ⟨-, hput, hputb, -, -⟩ := h.admitted (.inr hpc)
  have hcap := cap.isLt
  have room : p.occ.toNat + n.toNat ≤ cap.toNat := by
    rcases hop with ⟨hop, rfl⟩ | ⟨hop, rfl⟩
    · have := hput hop; simp only [BitVec.toNat_ofNat]; omega
    · exact (hputb hop).2
  rwa [add32_toNat (by omega)]

/-- The estimate less the count of a consumer stays within `CAP` (rules R140, R141). -/
theorem EstimateOk.get_le {n : U32} (h : EstimateOk cap p) (hpc : Port.holding p = true)
    (hop : (p.op = 0x03#8 ∧ n = 1#32) ∨ (p.op = 0x04#8 ∧ n = p.n)) : (sub32 p.occ n).toNat ≤ cap.toNat := by
  obtain ⟨hocc, -, -, hget, hgetb⟩ := h.admitted (.inr hpc)
  have waiting : n.toNat ≤ p.occ.toNat := by
    rcases hop with ⟨hop, rfl⟩ | ⟨hop, rfl⟩
    · exact hget hop
    · exact (hgetb hop).2
  rw [sub32_toNat waiting]
  omega

end estimate

/-- Every move leaves its port with a response and an estimate within `CAP`. -/
theorem portMove_estimateOk {s t : State} {p : Port} (hp : EstimateOk s.cap p) (h : PortMove s p t) :
    ∃ p', t.ports = s.ports.set s.active p' ∧ EstimateOk s.cap p' := by
  have le := est_le s.cap p.gs s.putc
  cases h
  case refused hpc => exact ⟨_, rfl, fun _ => Nat.zero_le _, by simp [hpc, Port.holding]⟩
  case issued i hpc _ =>
    refine ⟨_, rfl, by simp, ?_⟩
    dsimp only [Port.holding]
    split <;> simp
  case snappedG => exact ⟨_, rfl, hp.reported, by simp [Port.holding]⟩
  case admitted n hpc _ hn => exact ⟨_, rfl, hp.reported, fun _ => ⟨le, hn⟩⟩
  case rejected => exact ⟨_, rfl, estimateOk_respond le⟩
  case rejectedBatch => exact ⟨_, rfl, estimateOk_respond le⟩
  case answeredOcc => exact ⟨_, rfl, estimateOk_respond le⟩
  case answeredStat => exact ⟨_, rfl, estimateOk_respond le⟩
  case answeredCap => exact ⟨_, rfl, estimateOk_respond (Nat.zero_le _)⟩
  case contended hpc _ => exact ⟨_, rfl, estimateOk_respond (hp.admitted (.inl hpc)).1⟩
  case publishedLast n hpc hop _ =>
    have counted := hop.imp_right (And.imp_right And.left)
    exact ⟨_, rfl, estimateOk_respond (hp.put_le (by simp [Port.holding, hpc]) counted)⟩
  case releasedLast n hpc hop _ =>
    have counted := hop.imp_right (And.imp_right And.left)
    exact ⟨_, rfl, estimateOk_respond (hp.get_le (by simp [Port.holding, hpc]) counted)⟩
  all_goals exact ⟨_, rfl, hp.goesOn (by simp [Port.holding, *]) rfl rfl rfl rfl⟩

/-- After a reset no response may be read and no operation is in progress (rules R41, R180). -/
theorem estimatesOk_resetEvent (req : U32) (s : State) : estimatesOk (resetEvent req s) := by
  refine estimatesOk_iff.mpr fun p hp => ?_
  obtain ⟨q, -, rfl⟩ := List.mem_map.mp hp
  exact ⟨by simp [Port.reset, Rsp.reset], by simp [Port.reset, Port.holding]⟩

theorem estimatesOk_turnState {s : State} (i : Nat) : estimatesOk (turnState s i) ↔ estimatesOk s := by
  simp [estimatesOk]

/-! ### Reservations that succeed -/

/-- A port that leaves RESERVE for POLL_G has won its CAS, on its own snapshot (rule R118). -/
theorem portMove_won {s t : State} {p p' : Port} (h : PortMove s p t) (hpc : p.pc = .reserve)
    (ht : t.ports = s.ports.set s.active p') (hp : s.ports[s.active]? = some p) (hpc' : p'.pc = .pollG) :
    (producerOp p.op = true ∧ s.putc = p.ps) ∨ (consumerOp p.op = true ∧ s.getc = p.gs) := by
  cases h
  case reservedPut _ hop hps => exact .inl ⟨producerOp_of_cases hop, hps⟩
  case reservedGet _ hop hgs => exact .inr ⟨consumerOp_of_cases hop, hgs⟩
  case contended =>
    have hlt := (List.getElem?_eq_some_iff.mp hp).1
    have same := congrArg (·[s.active]?) ht
    simp only [State.setPort_ports, List.getElem?_set_self hlt, Option.some.injEq] at same
    rw [← same] at hpc'
    cases hpc'
  all_goals simp_all

/-- The estimate of a PUT is below its threshold, and the occupancy at its CAS is no larger than the estimate (rules R120(b),
R130(d)). -/
theorem CursorsOk.belowThreshold_of_put {s : State} {p : Port} (h : CursorsOk s) (hp : p ∈ s.ports)
    (hpc : p.pc = .reserve) (hop : p.op = 0x01#8) (hps : s.putc = p.ps) :
    (sub32 s.putc s.getc).toNat + 1 < s.cap.toNat := by
  obtain ⟨-, hocc, hput, -⟩ := h.admitted p hp hpc
  have admitted := hput hop
  have hest := est_toNat s.cap p.gs p.ps
  rw [← hocc, ← hps] at hest
  have hdist := sub32_of_between (h.snapshots p hp (.inr hpc))
  omega

end Sys2Proof.Safety
end

section
/-! PROOF. The bound on reported occupancies and on accepted reservations, settled (rules R120, R130, R131, R140, R141,
R176, R197). -/

namespace Sys2Proof.Proofs

open Sys2Proof.Machine Sys2Proof.Safety

/-- Settles O44: a reset leaves no response to read, a waiting turn changes none, and each move keeps its own port's bound. -/
theorem estimatesKept : Obligations.EstimatesKept := by
  intro s t hs h
  rcases step_next h with ⟨req, -, rfl⟩ | ⟨i, p, -, -, -, -, rfl⟩ | ⟨i, p, -, hp, hm⟩
  · exact estimatesOk_resetEvent req _
  · exact (estimatesOk_turnState i).mpr hs
  · have before := estimatesOk_iff.mp ((estimatesOk_turnState i).mpr hs)
    obtain ⟨p', ht, hp'⟩ := portMove_estimateOk (before p (by simpa using List.mem_of_getElem? hp)) hm
    refine estimatesOk_iff.mpr ?_
    rw [(portMove_config hm).1]
    exact forall_ports_set ht before hp'

/-- Settles O55: a CAS that succeeds finds the cursor at the port's own snapshot, where the count it was admitted with
fits. -/
theorem noPutAcceptedWhenFull : Obligations.NoPutAcceptedWhenFull := by
  intro s t i p p' hs hn hp hpc h hp' hpc'
  have turn := hs.turnState i
  have hmem : p ∈ (turnState s i).ports := by simpa using List.mem_of_getElem? hp
  rcases step_of_turn hn hp h with ⟨hidle, -⟩ | hm
  · rw [hpc] at hidle; cases hidle
  · obtain ⟨q, hq⟩ := portMove_ports hm
    obtain rfl := eq_of_ports_set (by simpa using hp) hq hp'
    have won := portMove_won hm hpc hq (by simpa using hp) hpc'
    refine ⟨fun hop => ?_, fun hop => ?_, fun hop => ?_, fun hop => ?_⟩ <;>
      simp only [hop, producerOp, consumerOp] at won
    · simpa using turn.belowThreshold_of_put hmem hpc hop (by simpa using won)
    · simpa using turn.room_of_producer hmem hpc (.inr ⟨hop, rfl⟩) (by simpa using won)
    · simpa using turn.waiting_of_consumer hmem hpc (.inl ⟨hop, rfl⟩) (by simpa using won)
    · simpa using turn.waiting_of_consumer hmem hpc (.inr ⟨hop, rfl⟩) (by simpa using won)

end Sys2Proof.Proofs
end

section
/-! PROOF. One port running alone: what its turns do to its own record, the cursors and the slots, everything else staying as
it was (rules R11, R50, R111). -/

namespace Sys2Proof.Machine

open Sys2Proof.Safety

/-! ### What one port sees -/

/-- The part of the shared space that operations write: the cursors, and the slots by index (rule R50). -/
structure Shared where
  putc : U32
  getc : U32
  slot : Nat → Slot

/-- The cursors and slots of a state. -/
def State.shared (s : State) : Shared := ⟨s.putc, s.getc, readSlot s.cap s.slots⟩

/-- One slot replaced. -/
def Shared.write (V : Shared) (k : Nat) (v : Slot) : Shared := { V with slot := Function.update V.slot k v }

@[simp] theorem Shared.write_putc (V : Shared) (k : Nat) (v : Slot) : (V.write k v).putc = V.putc := rfl
@[simp] theorem Shared.write_getc (V : Shared) (k : Nat) (v : Slot) : (V.write k v).getc = V.getc := rfl

theorem Shared.write_slot_self (V : Shared) (k : Nat) (v : Slot) : (V.write k v).slot k = v := Function.update_self ..

theorem Shared.write_slot_other (V : Shared) {k l : Nat} (h : l ≠ k) (v : Slot) : (V.write k v).slot l = V.slot l :=
  Function.update_of_ne h ..

theorem Shared.write_write (V : Shared) (k : Nat) (v w : Slot) : (V.write k v).write k w = V.write k w := by
  simp [Shared.write]

/-- `t` is `s` with port `i`'s record now `p` and the cursors and slots now `V` (canonical slot array). -/
structure Solo (s : State) (i : Nat) (t : State) (p : Port) (V : Shared) : Prop where
  cap : t.cap = s.cap
  mask : t.mask = s.mask
  cfgErr : t.cfgErr = s.cfgErr
  memory : Memory.wf t.cap t.slots = true
  shared : t.shared = V
  port : t.ports[i]? = some p
  others : ∀ j, j ≠ i → t.ports[j]? = s.ports[j]?

section solo

variable {s t : State} {i : Nat} {p p' : Port} {V : Shared} {pos : U32}

theorem Solo.self (hm : Memory.wf s.cap s.slots = true) (hp : s.ports[i]? = some p) : Solo s i s p s.shared :=
  ⟨rfl, rfl, rfl, hm, rfl, hp, fun _ _ => rfl⟩

theorem Solo.putc (h : Solo s i t p V) : t.putc = V.putc := by rw [← h.shared]; rfl
theorem Solo.getc (h : Solo s i t p V) : t.getc = V.getc := by rw [← h.shared]; rfl
theorem Solo.readSlot (h : Solo s i t p V) (k : Nat) : readSlot t.cap t.slots k = V.slot k := by rw [← h.shared]; rfl

theorem Solo.slotOf (h : Solo s i t p V) (pos : U32) : slotOf t pos = V.slot (slotIndex s.mask pos) := by
  rw [Safety.slotOf, h.mask, h.readSlot]

/-- There is a slot for every position, with a legal configuration (rule R52). -/
theorem Solo.slot? {sl : Slot} (h : Solo s i t p V) (hok : capacityOk s.cap s.mask)
    (hsl : V.slot (slotIndex s.mask pos) = sl) : t.slot? (slotIndex t.mask pos) = some sl :=
  slot?_eq_some.mpr ⟨by rw [h.cap, h.mask]; exact slotIndex_lt hok, (h.slotOf pos).trans hsl⟩

theorem Solo.turnState (h : Solo s i t p V) (a : Nat) : Solo s i (turnState t a) p V := by
  obtain ⟨h1, h2, h3, h4, h5, h6, h7⟩ := h
  refine ⟨?_, ?_, ?_, ?_, by simpa [State.shared] using h5, ?_, ?_⟩ <;> simpa

theorem Solo.setPort (h : Solo s i t p V) (hi : t.active = i) (p' : Port) : Solo s i (t.setPort p') p' V := by
  have hlt := (List.getElem?_eq_some_iff.mp h.port).1
  refine ⟨h.cap, h.mask, h.cfgErr, h.memory, h.shared, ?_, fun j hj => ?_⟩ <;> rw [State.setPort_ports, hi]
  · exact List.getElem?_set_self hlt
  · rw [List.getElem?_set_ne hj.symm]; exact h.others j hj

theorem Solo.setSlot (h : Solo s i t p V) {k : Nat} (hk : k < s.cap.toNat) (v : Slot) :
    Solo s i (t.setSlot k v) p (V.write k v) := by
  refine ⟨h.cap, h.mask, h.cfgErr, writeSlot_wf v (h.cap ▸ hk) h.memory, ?_, h.port, h.others⟩
  rw [← h.shared]
  simp only [State.shared, Shared.write, State.setSlot_putc, State.setSlot_getc, State.setSlot_cap, State.setSlot_slots,
    Shared.mk.injEq, true_and]
  funext l
  rw [readSlot_write v h.memory, Function.update_apply]

theorem Solo.setPutc (h : Solo s i t p V) (c : U32) : Solo s i { t with putc := c } p { V with putc := c } :=
  ⟨h.cap, h.mask, h.cfgErr, h.memory, by rw [← h.shared]; rfl, h.port, h.others⟩

theorem Solo.setGetc (h : Solo s i t p V) (c : U32) : Solo s i { t with getc := c } p { V with getc := c } :=
  ⟨h.cap, h.mask, h.cfgErr, h.memory, by rw [← h.shared]; rfl, h.port, h.others⟩

end solo

/-! ### Turn by turn -/

/-- After `k` turns from `s`, with the next `r` turns port `i`'s and then `ts`: port `i`'s record is `p`, the cursors and slots
are `V`, and all else is as in `s`. -/
def Reaches (s : State) (i : Nat) (ts : List Turn) (k r : Nat) (p : Port) (V : Shared) : Prop :=
  ∃ t, run k s = .next t ∧ t.sched = List.replicate r (.port i) ++ ts ∧ Solo s i t p V

section reaches

variable {s : State} {i k r : Nat} {ts : List Turn} {p p' : Port} {V V' : Shared} {j : Instr}

/-- One turn of the port, by what its step does to the state that has taken the turn. -/
theorem Reaches.turn (h : Reaches s i ts k (r + 1) p V)
    (effect : ∀ t, t.active = i → t.activePort? = some p → Solo s i t p V →
      ∃ t', stepPort t = .next t' ∧ t'.sched = t.sched ∧ Solo s i t' p' V') : Reaches s i ts (k + 1) r p' V' := by
  obtain ⟨t, hrun, hsched, solo⟩ := h
  rw [List.replicate_succ, List.cons_append] at hsched
  obtain ⟨t', hstep, hsched', solo'⟩ := effect (turnState t i) rfl (by simpa using solo.port) (solo.turnState i)
  refine ⟨t', run_succ hrun ((step_of_sched hsched).trans hstep), hsched'.trans ?_, solo'⟩
  rw [turnState_of_sched hsched]

/-- A turn that replaces the port's record only. -/
theorem Reaches.setPort (h : Reaches s i ts k (r + 1) p V)
    (hstep : ∀ t, t.activePort? = some p → Solo s i t p V → stepPort t = .next (t.setPort p')) :
    Reaches s i ts (k + 1) r p' V :=
  h.turn fun t hi hp solo => ⟨_, hstep t hp solo, rfl, solo.setPort hi p'⟩

/-- A turn that writes the slot of a position as well. -/
theorem Reaches.setSlot (h : Reaches s i ts k (r + 1) p V) (hok : capacityOk s.cap s.mask) (pos : U32) {v : Slot}
    (hstep : ∀ t, t.activePort? = some p → Solo s i t p V →
      stepPort t = .next ((t.setSlot (slotIndex s.mask pos) v).setPort p')) :
    Reaches s i ts (k + 1) r p' (V.write (slotIndex s.mask pos) v) :=
  h.turn fun t hi hp solo => ⟨_, hstep t hp solo, rfl, (solo.setSlot (slotIndex_lt hok) v).setPort hi p'⟩

/-! ### From issue to RESERVE (rules R91, R119, R120) -/

theorem Reaches.issue {c : Command} {cs : List Command} (h : Reaches s i ts k (r + 1) p V) (hc : s.cfgErr = false)
    (hpc : p.pc = .idle) (hcmds : p.cmds = c :: cs) (hd : decode c.word = some j) :
    Reaches s i ts (k + 1) r (p.issued j) V :=
  h.setPort fun t hp solo => by
    rw [stepPort_presented hp hpc hcmds hd, exec_of_idle hp hpc, issue_legal (solo.cfgErr.trans hc)]

theorem Reaches.snapG (h : Reaches s i ts k (r + 1) p V) (hpc : p.pc = .snapG) (hop : p.op = j.opcode)
    (harg : p.arg = j.arg) (hj : j ≠ .cap) : Reaches s i ts (k + 1) r { p with gs := V.getc, pc := .snapP } V :=
  h.setPort fun t hp solo => by
    rw [stepPort_latched hp (by simp [hpc]) (by rw [hop, harg]; exact ofLatched_self j), exec_snapG hp hpc hop hj,
      solo.getc]

/-- Command `j` is admitted for `n` positions on the estimate `occ` (rules R130, R131, R140, R141). -/
def Admits (cap occ n : U32) : Instr → Prop
  | .put => n = 1#32 ∧ occ.toNat + 1 < cap.toNat
  | .putb arg => n = putbCount cap arg occ ∧ n ≠ 0#32
  | .get => n = 1#32 ∧ occ ≠ 0#32
  | .getb arg => n = getbCount arg occ ∧ n ≠ 0#32
  | .occ => False
  | .cap => False
  | .stat => False

/-- SNAP_P of a command that is admitted. -/
theorem stepPort_snapP_admits {t : State} {n : U32} (hp : t.activePort? = some p) (hpc : p.pc = .snapP)
    (hop : p.op = j.opcode) (harg : p.arg = j.arg) (h : Admits t.cap (est t.cap p.gs t.putc) n j) :
    stepPort t = goReserve t (p.snapshot t) n := by
  have busy : p.pc ≠ .idle := by simp [hpc]
  cases j
  case put =>
    obtain ⟨rfl, hocc⟩ := h
    rw [stepPort_put hp busy hop, hpc]
    exact putSnapP_admitted (by omega)
  case putb arg =>
    obtain rfl : p.arg = arg := harg
    obtain ⟨rfl, hn⟩ := h
    rw [stepPort_putb hp busy hop, hpc]
    exact putbSnapP_admitted hn
  case get =>
    obtain ⟨rfl, hocc⟩ := h
    rw [stepPort_get hp busy hop, hpc]
    exact getSnapP_admitted hocc
  case getb arg =>
    obtain rfl : p.arg = arg := harg
    obtain ⟨rfl, hn⟩ := h
    rw [stepPort_getb hp busy hop, hpc]
    exact getbSnapP_admitted hn
  all_goals exact h.elim

theorem Reaches.snapP {n : U32} (h : Reaches s i ts k (r + 1) p V) (hpc : p.pc = .snapP) (hop : p.op = j.opcode)
    (harg : p.arg = j.arg) (hj : Admits s.cap (est s.cap p.gs V.putc) n j) :
    Reaches s i ts (k + 1) r
      { p with ps := V.putc, occ := est s.cap p.gs V.putc, n := n, pc := .reserve } V :=
  h.setPort fun t hp solo => by
    rw [stepPort_snapP_admits hp hpc hop harg (by rwa [solo.cap, solo.putc]), goReserve, Port.snapshot, solo.cap,
      solo.putc]

/-- The record of a port that presents `j` on the cursors of `V` and is admitted for `n` positions. -/
def Port.admitted (p : Port) (j : Instr) (cap : U32) (V : Shared) (n : U32) : Port :=
  { p.issued j with gs := V.getc, ps := V.putc, occ := est cap V.getc V.putc, n := n, pc := .reserve }

theorem Reaches.to_reserve {c : Command} {cs : List Command} {n : U32} (h : Reaches s i ts k (r + 3) p V)
    (hc : s.cfgErr = false) (hpc : p.pc = .idle) (hcmds : p.cmds = c :: cs) (hd : decode c.word = some j)
    (hj : Admits s.cap (est s.cap V.getc V.putc) n j) : Reaches s i ts (k + 3) r (p.admitted j s.cap V n) V := by
  have ne_cap : j ≠ .cap := by rintro rfl; exact hj
  have issued := h.issue hc hpc hcmds hd
  have snapped := issued.snapG (if_neg (mt opcode_eq_cap.mp ne_cap)) rfl rfl ne_cap
  exact snapped.snapP rfl rfl rfl hj

/-! ### RESERVE (rule R118) -/

theorem Reaches.reservePut (h : Reaches s i ts k (r + 1) p V) (hpc : p.pc = .reserve) (hop : producerOp p.op = true)
    (hps : V.putc = p.ps) :
    Reaches s i ts (k + 1) r (p.reserved p.ps) { V with putc := add32 p.ps p.demand } :=
  h.turn fun _ hi hp solo =>
    ⟨_, (stepPort_reserve_producer hp hpc hop).trans (reservePut_of_snapshot _ (solo.putc.trans hps)), rfl,
      (solo.setPutc (add32 p.ps p.demand)).setPort hi _⟩

theorem Reaches.reserveGet (h : Reaches s i ts k (r + 1) p V) (hpc : p.pc = .reserve) (hop : consumerOp p.op = true)
    (hgs : V.getc = p.gs) :
    Reaches s i ts (k + 1) r (p.reserved p.gs) { V with getc := add32 p.gs p.demand } :=
  h.turn fun _ hi hp solo =>
    ⟨_, (stepPort_reserve_consumer hp hpc hop).trans (reserveGet_of_snapshot _ (solo.getc.trans hgs)), rfl,
      (solo.setGetc (add32 p.gs p.demand)).setPort hi _⟩

end reaches

/-! ### The handshake of one position (rules R121, R123, R124) -/

/-- PUT and GET are batches of one item (rules R130, R140 against R131, R141). -/
def Port.singleItem (p : Port) : Prop := p.op = 0x01#8 ∨ p.op = 0x03#8 → p.n = 1#32 ∧ p.k = 0#32

/-- PUBLISH of a batch: the next item, or the answer (rules R131, R141). -/
def Port.finishItem (p : Port) (r : Rsp) : Port := if moreItems p.k p.n then p.nextItem else p.respond r

/-- The answer of a producer (rules R130, R131). -/
def Port.putAnswer (p : Port) : Rsp := Rsp.answer true p.n (add32 p.occ p.n) [] []

/-- The answer of a consumer (rules R140, R141). -/
def Port.getAnswer (p : Port) : Rsp := Rsp.answer true p.n (sub32 p.occ p.n) p.outItems []

theorem Port.singleItem.finishItem {p : Port} (h : p.singleItem) (hop : p.op = 0x01#8 ∨ p.op = 0x03#8) (r : Rsp) :
    p.finishItem r = p.respond r := by
  obtain ⟨hn, hk⟩ := h hop
  simp [Port.finishItem, moreItems, hn, hk]

section steps

variable {s : State} {p : Port} (hp : s.activePort? = some p)
include hp

theorem stepPort_xfer_producer (hpc : p.pc = .xfer) (hop : producerOp p.op = true) (hone : p.singleItem) :
    stepPort s = xferWrite p.k.toNat s p :=
  stepPort_producer hp (by simp [hpc]) hop
    (fun hput => by rw [hpc, (hone (.inl hput)).2]; rfl) (fun _ => by rw [hpc]; rfl)

theorem stepPort_publish_producer (hpc : p.pc = .publish) (hop : producerOp p.op = true) (hone : p.singleItem) :
    stepPort s = publishPut (p.finishItem p.putAnswer) s p :=
  stepPort_producer hp (by simp [hpc]) hop
    (fun hput => by
      rw [hpc, hone.finishItem (.inl hput), Port.putAnswer, (hone (.inl hput)).1]; rfl)
    (fun _ => by rw [hpc]; rfl)

theorem stepPort_xfer_consumer (hpc : p.pc = .xfer) (hop : consumerOp p.op = true)
    (hout : p.op = 0x03#8 → p.outItems = []) : stepPort s = xferRead p.outItems s p :=
  stepPort_consumer hp (by simp [hpc]) hop
    (fun hget => by rw [hpc, hout hget]; rfl) (fun _ => by rw [hpc]; rfl)

theorem stepPort_clear_consumer (hpc : p.pc = .clear) (hop : consumerOp p.op = true) : stepPort s = clearSlot s p :=
  stepPort_consumer hp (by simp [hpc]) hop (fun _ => by rw [hpc]; rfl) (fun _ => by rw [hpc]; rfl)

theorem stepPort_publish_consumer (hpc : p.pc = .publish) (hop : consumerOp p.op = true) (hone : p.singleItem) :
    stepPort s = publishGet (p.finishItem p.getAnswer) s p :=
  stepPort_consumer hp (by simp [hpc]) hop
    (fun hget => by
      rw [hpc, hone.finishItem (.inr hget), Port.getAnswer, (hone (.inr hget)).1]; rfl)
    (fun _ => by rw [hpc]; rfl)

end steps

section handshake

variable {s : State} {i k r : Nat} {ts : List Turn} {p : Port} {V : Shared} {sl : Slot}
variable (hok : capacityOk s.cap s.mask)
include hok

theorem Reaches.pollG (h : Reaches s i ts k (r + 1) p V) (hpc : p.pc = .pollG)
    (hop : producerOp p.op = true ∨ consumerOp p.op = true) (hsl : V.slot (slotIndex s.mask p.pos) = sl) :
    Reaches s i ts (k + 1) r { p with sg := sl.gseq, pc := .pollP } V :=
  h.setPort fun _ hp solo => (stepPort_pollG hp hpc hop).trans (pollG_of_slot (solo.slot? hok hsl))

theorem Reaches.pollP_producer (h : Reaches s i ts k (r + 1) p V) (hpc : p.pc = .pollP) (hop : producerOp p.op = true)
    (hsl : V.slot (slotIndex s.mask p.pos) = sl) (ready : sl.pseq = p.pos ∧ p.sg = sl.pseq) :
    Reaches s i ts (k + 1) r { p with sp := sl.pseq, pc := .xfer } V :=
  h.setPort fun _ hp solo => by
    rw [stepPort_pollP_producer hp hpc hop, pollPForWrite_of_slot (solo.slot? hok hsl), if_pos ready]

theorem Reaches.pollP_consumer (h : Reaches s i ts k (r + 1) p V) (hpc : p.pc = .pollP) (hop : consumerOp p.op = true)
    (hsl : V.slot (slotIndex s.mask p.pos) = sl) (ready : p.sg = p.pos ∧ sl.pseq = add32 p.pos s.cap) :
    Reaches s i ts (k + 1) r { p with sp := sl.pseq, pc := .xfer } V :=
  h.setPort fun _ hp solo => by
    rw [stepPort_pollP_consumer hp hpc hop, pollPForRead_of_slot (solo.slot? hok hsl), solo.cap, if_pos ready]

theorem Reaches.store (h : Reaches s i ts k (r + 1) p V) (hpc : p.pc = .xfer) (hop : producerOp p.op = true)
    (hone : p.singleItem) (hsl : V.slot (slotIndex s.mask p.pos) = sl) :
    Reaches s i ts (k + 1) r { p with pc := .publish }
      (V.write (slotIndex s.mask p.pos) (sl.withVal (some (itemAt p.inItems p.k.toNat)))) :=
  h.setSlot hok p.pos fun _ hp solo => by
    rw [stepPort_xfer_producer hp hpc hop hone, xferWrite_of_slot (solo.slot? hok hsl), solo.mask]

theorem Reaches.take {d : Item} (h : Reaches s i ts k (r + 1) p V) (hpc : p.pc = .xfer) (hop : consumerOp p.op = true)
    (hout : p.op = 0x03#8 → p.outItems = []) (hsl : V.slot (slotIndex s.mask p.pos) = sl) (hd : sl.val = some d) :
    Reaches s i ts (k + 1) r { p with outItems := p.outItems ++ [d], pc := .clear } V :=
  h.setPort fun _ hp solo =>
    (stepPort_xfer_consumer hp hpc hop hout).trans (xferRead_of_full (solo.slot? hok hsl) hd _)

theorem Reaches.clear (h : Reaches s i ts k (r + 1) p V) (hpc : p.pc = .clear) (hop : consumerOp p.op = true)
    (hsl : V.slot (slotIndex s.mask p.pos) = sl) :
    Reaches s i ts (k + 1) r { p with pc := .publish } (V.write (slotIndex s.mask p.pos) (sl.withVal none)) :=
  h.setSlot hok p.pos fun _ hp solo => by
    rw [stepPort_clear_consumer hp hpc hop, clearSlot_of_slot (solo.slot? hok hsl), solo.mask]

theorem Reaches.publish (h : Reaches s i ts k (r + 1) p V) (hpc : p.pc = .publish) (hop : producerOp p.op = true)
    (hone : p.singleItem) (hsl : V.slot (slotIndex s.mask p.pos) = sl) :
    Reaches s i ts (k + 1) r (p.finishItem p.putAnswer)
      (V.write (slotIndex s.mask p.pos) (sl.addPseq s.cap)) :=
  h.setSlot hok p.pos fun _ hp solo => by
    rw [stepPort_publish_producer hp hpc hop hone, publishPut_of_slot (solo.slot? hok hsl), solo.mask, solo.cap]

theorem Reaches.release (h : Reaches s i ts k (r + 1) p V) (hpc : p.pc = .publish) (hop : consumerOp p.op = true)
    (hone : p.singleItem) (hsl : V.slot (slotIndex s.mask p.pos) = sl) :
    Reaches s i ts (k + 1) r (p.finishItem p.getAnswer)
      (V.write (slotIndex s.mask p.pos) (sl.addGseq s.cap)) :=
  h.setSlot hok p.pos fun _ hp solo => by
    rw [stepPort_publish_consumer hp hpc hop hone, publishGet_of_slot (solo.slot? hok hsl), solo.mask, solo.cap]

/-- A producer's handshake on a slot that is ready for write: the item of its lane, published one lap on (rule R123). -/
theorem Reaches.handshake_producer {v : Option Item} (h : Reaches s i ts k (r + 4) p V) (hpc : p.pc = .pollG)
    (hop : producerOp p.op = true) (hone : p.singleItem)
    (hsl : V.slot (slotIndex s.mask p.pos) = ⟨p.pos, p.pos, v⟩) :
    Reaches s i ts (k + 4) r
      (Port.finishItem { p with sg := p.pos, sp := p.pos, pc := .publish } p.putAnswer)
      (V.write (slotIndex s.mask p.pos) ⟨add32 p.pos s.cap, p.pos, some (itemAt p.inItems p.k.toNat)⟩) := by
  have sampledG := h.pollG hok hpc (.inl hop) hsl
  have sampledP := sampledG.pollP_producer hok rfl hop hsl ⟨rfl, rfl⟩
  have stored := sampledP.store hok rfl hop hone hsl
  have published := stored.publish hok rfl hop hone (V.write_slot_self _ _)
  rwa [Shared.write_write] at published

/-- A consumer's handshake on a slot that is READABLE: the item taken, the slot empty and released one lap on
(rule R124). -/
theorem Reaches.handshake_consumer {d : Item} (h : Reaches s i ts k (r + 5) p V) (hpc : p.pc = .pollG)
    (hop : consumerOp p.op = true) (hone : p.singleItem) (hout : p.op = 0x03#8 → p.outItems = [])
    (hsl : V.slot (slotIndex s.mask p.pos) = ⟨add32 p.pos s.cap, p.pos, some d⟩) :
    Reaches s i ts (k + 5) r
      (Port.finishItem { p with sg := p.pos, sp := add32 p.pos s.cap, outItems := p.outItems ++ [d], pc := .publish }
        (Rsp.answer true p.n (sub32 p.occ p.n) (p.outItems ++ [d]) []))
      (V.write (slotIndex s.mask p.pos) ⟨add32 p.pos s.cap, add32 p.pos s.cap, none⟩) := by
  have sampledG := h.pollG hok hpc (.inr hop) hsl
  have sampledP := sampledG.pollP_consumer hok rfl hop hsl ⟨rfl, rfl⟩
  have taken := sampledP.take hok rfl hop hout hsl rfl
  have cleared := taken.clear hok rfl hop hsl
  have released := cleared.release hok rfl hop hone (V.write_slot_self _ _)
  rwa [Shared.write_write] at released

end handshake

end Sys2Proof.Machine
end

section
/-! PROOF. A batch of one port running alone: one handshake for each reserved position, in position order, each on a slot of
its own (rules R111, R122, R131, R141). -/

namespace Sys2Proof.Machine

open Sys2Proof.Safety

/-! ### Positions of a batch -/

theorem positionAfter_zero (c : U32) : positionAfter c 0 = add32 c 1#32 := by simp [positionAfter, add32]

theorem positionAfter_succ (c : U32) (k : Nat) : add32 (positionAfter c k) 1#32 = positionAfter c (k + 1) := by
  simp [positionAfter, add32, BitVec.ofNat_add, BitVec.add_assoc]

/-- Fewer than `CAP` positions apart, two positions have slots of their own (rule R122). -/
theorem slotIndex_positionAfter_ne {cap mask c : U32} (hok : capacityOk cap mask) {k l : Nat} (hkl : l < k)
    (hk : k < l + cap.toNat) : slotIndex mask (positionAfter c l) ≠ slotIndex mask (positionAfter c k) := by
  have hc : c = low c.toNat := by simp [low]
  rw [hc, positionAfter_low, positionAfter_low, slotIndex_low hok, slotIndex_low hok]
  intro same
  have := add_le_of_mod_eq same rfl (by omega)
  omega

/-! ### The slots after some positions of a batch -/

/-- `V` once the first `k` positions after the cursor `c` are done, position `l` leaving its slot as `done l`. -/
def Shared.finished (V : Shared) (mask c : U32) (done : Nat → Slot) : Nat → Shared
  | 0 => V
  | k + 1 => (V.finished mask c done k).write (slotIndex mask (positionAfter c k)) (done k)

section finished

variable {V : Shared} {cap mask c : U32} {done : Nat → Slot} {j k l : Nat}

@[simp] theorem Shared.finished_putc : (V.finished mask c done k).putc = V.putc := by
  induction k with
  | zero => rfl
  | succ k ih => exact ih

@[simp] theorem Shared.finished_getc : (V.finished mask c done k).getc = V.getc := by
  induction k with
  | zero => rfl
  | succ k ih => exact ih

/-- A slot of none of these positions is as before. -/
theorem Shared.finished_slot_other (h : ∀ l, l < k → j ≠ slotIndex mask (positionAfter c l)) :
    (V.finished mask c done k).slot j = V.slot j := by
  induction k with
  | zero => rfl
  | succ k ih =>
    rw [Shared.finished, Shared.write_slot_other _ (h k k.lt_succ_self)]
    exact ih fun l hl => h l (Nat.lt_succ_of_lt hl)

/-- The slot of one of these positions is as that position leaves it. -/
theorem Shared.finished_slot (hok : capacityOk cap mask) (hk : k ≤ cap.toNat) (hl : l < k) :
    (V.finished mask c done k).slot (slotIndex mask (positionAfter c l)) = done l := by
  induction k with
  | zero => omega
  | succ k ih =>
    rcases Nat.lt_succ_iff_lt_or_eq.mp hl with hlt | rfl
    · rw [Shared.finished, Shared.write_slot_other _ (slotIndex_positionAfter_ne hok hlt (by omega))]
      exact ih (by omega) hlt
    · exact Shared.write_slot_self ..

/-- The slot of the next position has not been touched. -/
theorem Shared.finished_slot_next (hok : capacityOk cap mask) (hk : k < cap.toNat) :
    (V.finished mask c done k).slot (slotIndex mask (positionAfter c k)) =
      V.slot (slotIndex mask (positionAfter c k)) :=
  Shared.finished_slot_other fun _ hl => (slotIndex_positionAfter_ne hok hl (by omega)).symm

end finished

/-! ### The port's record during a batch -/

/-- A port at item `k` of its batch, the cursor having been `c`, with the items `out` taken and these two samples. -/
def Port.atItem (p : Port) (c : U32) (k : Nat) (out : List Item) (sg sp : U32) : Port :=
  { p with k := BitVec.ofNat 32 k, pos := positionAfter c k, outItems := out, sg := sg, sp := sp, pc := .pollG }

/-- After RESERVE a port is at its first item (rules R111, R118). -/
theorem Port.reserved_eq_atItem (p : Port) (c : U32) : p.reserved c = p.atItem c 0 p.outItems p.sg p.sp := by
  rw [Port.reserved, Port.atItem, positionAfter_zero]

/-- The record of a port that was `q` at RESERVE, once `k` items are done: at item `k` with `out k`, or, after the last one,
idle with the answer `r`. -/
structure BatchRecord (q : Port) (c : U32) (out : Nat → List Item) (r : Rsp) (k : Nat) (p : Port) : Prop where
  inside : k < q.n.toNat → ∃ sg sp, p = q.atItem c k (out k) sg sp
  answered : k = q.n.toNat → p.pc = .idle ∧ p.cmds = q.cmds ∧ p.rsp = r

section batch

variable {q : Port} {c : U32} {out : Nat → List Item} {ans r : Rsp} {k : Nat} {sg sp : U32}

theorem batchRecord_atItem (hn : 0 < q.n.toNat) : BatchRecord q c out ans 0 (q.atItem c 0 (out 0) sg sp) :=
  ⟨fun _ => ⟨sg, sp, rfl⟩, fun h => absurd h (by omega)⟩

theorem ofNat_toNat_of_lt {n : U32} (h : k < n.toNat) : (BitVec.ofNat 32 k).toNat = k := by
  rw [BitVec.toNat_ofNat, Nat.mod_eq_of_lt (h.trans n.isLt)]

/-- PUBLISH takes the port to its next item, or ends the batch with the answer (rules R123, R124). -/
theorem batchRecord_finishItem (hk : k < q.n.toNat) (hr : k + 1 = q.n.toNat → r = ans) :
    BatchRecord q c out ans (k + 1)
      (Port.finishItem { q.atItem c k (out (k + 1)) sg sp with pc := .publish } r) := by
  have counted := ofNat_toNat_of_lt hk
  refine ⟨fun more => ⟨sg, sp, ?_⟩, fun last => ?_⟩
  · have next : moreItems (BitVec.ofNat 32 k) q.n = true := decide_eq_true (by rwa [counted])
    rw [Port.finishItem, if_pos (by exact next), Port.nextItem, Port.atItem, Port.atItem, ← positionAfter_succ,
      BitVec.ofNat_add]
    rfl
  · have none_left : ¬ moreItems (BitVec.ofNat 32 k) q.n = true := by
      rw [moreItems, decide_eq_true_eq, counted]; omega
    rw [Port.finishItem, if_neg (by exact none_left)]
    exact ⟨rfl, rfl, hr last⟩

theorem singleItem_atItem {o : List Item} (hone : q.op = 0x01#8 ∨ q.op = 0x03#8 → q.n = 1#32) (hk : k < q.n.toNat) :
    (q.atItem c k o sg sp).singleItem := by
  intro hop
  have hn := hone hop
  have hk0 : k = 0 := by rw [hn] at hk; exact Nat.lt_one_iff.mp hk
  exact ⟨hn, by rw [hk0]; rfl⟩

end batch

/-! ### The batch -/

/-- What a producer leaves in the slot of item `k`: the item, published one lap on (rule R123). -/
def publishedSlot (cap c : U32) (items : List Item) (k : Nat) : Slot :=
  ⟨add32 (positionAfter c k) cap, positionAfter c k, some (itemAt items k)⟩

/-- What a consumer leaves in the slot of item `k`: nothing, for the next lap (rules R117, R124). -/
def releasedSlot (cap c : U32) (k : Nat) : Slot :=
  ⟨add32 (positionAfter c k) cap, add32 (positionAfter c k) cap, none⟩

section run

variable {s : State} {i a : Nat} {ts : List Turn} {V : Shared} {c : U32} {done : Nat → Slot}

/-- One handshake after the other: what each does to the port's record adds up to the batch. -/
theorem Reaches.batch {R : Nat → Port → Prop} {turns m r : Nat} {p : Port}
    (each : ∀ k p a r, k < m → R k p → Reaches s i ts a (r + turns) p (V.finished s.mask c done k) →
      ∃ p', R (k + 1) p' ∧ Reaches s i ts (a + turns) r p' (V.finished s.mask c done (k + 1)))
    (h : Reaches s i ts a (r + turns * m) p V) (start : R 0 p) :
    ∃ p', R m p' ∧ Reaches s i ts (a + turns * m) r p' (V.finished s.mask c done m) := by
  suffices upto : ∀ k, k ≤ m → ∃ p', R k p' ∧
      Reaches s i ts (a + turns * k) (r + turns * (m - k)) p' (V.finished s.mask c done k) by
    simpa using upto m le_rfl
  intro k
  induction k with
  | zero => exact fun _ => ⟨p, start, h⟩
  | succ k ih =>
    intro hk
    obtain ⟨p', hp', hreach⟩ := ih (by omega)
    have split_turns : r + turns * (m - k) = r + turns * (m - (k + 1)) + turns := by
      rw [add_assoc, ← Nat.mul_succ]; congr 2; omega
    rw [split_turns] at hreach
    rw [Nat.mul_succ, ← add_assoc]
    exact each k p' _ _ (by omega) hp' hreach

variable {q : Port} {sg sp : U32} {r : Nat}
variable (hok : capacityOk s.cap s.mask) (hone : q.op = 0x01#8 ∨ q.op = 0x03#8 → q.n = 1#32)
variable (hn : 1 ≤ q.n.toNat) (hle : q.n.toNat ≤ s.cap.toNat)
include hok hone hn hle

/-- A producer's batch, each of its slots being ready for write. -/
theorem Reaches.batch_producer (hop : producerOp q.op = true)
    (ready : ∀ k, k < q.n.toNat → ∃ v, V.slot (slotIndex s.mask (positionAfter c k)) =
      ⟨positionAfter c k, positionAfter c k, v⟩)
    (h : Reaches s i ts a (r + 4 * q.n.toNat) (q.atItem c 0 q.outItems sg sp) V) :
    ∃ p', BatchRecord q c (fun _ => q.outItems) q.putAnswer q.n.toNat p' ∧
      Reaches s i ts (a + 4 * q.n.toNat) r p'
        (V.finished s.mask c (publishedSlot s.cap c q.inItems) q.n.toNat) := by
  refine h.batch (fun k p a r hk hp reach => ?_) (batchRecord_atItem hn)
  obtain ⟨sg, sp, rfl⟩ := hp.inside hk
  obtain ⟨v, hv⟩ := ready k hk
  have hslot := (Shared.finished_slot_next (done := publishedSlot s.cap c q.inItems) hok (by omega)).trans hv
  have shaken := reach.handshake_producer hok rfl hop (singleItem_atItem hone hk) hslot
  have item : (q.atItem c k q.outItems sg sp).k.toNat = k := ofNat_toNat_of_lt hk
  rw [item] at shaken
  exact ⟨_, batchRecord_finishItem (sg := positionAfter c k) (sp := positionAfter c k) hk fun _ => rfl, shaken⟩

/-- A consumer's batch, its slots being READABLE with `ds`. -/
theorem Reaches.batch_consumer {ds : List Item} (hop : consumerOp q.op = true) (hds : ds.length = q.n.toNat)
    (ready : ∀ k, k < q.n.toNat → V.slot (slotIndex s.mask (positionAfter c k)) =
      ⟨add32 (positionAfter c k) s.cap, positionAfter c k, some (ds.getD k 0)⟩)
    (h : Reaches s i ts a (r + 5 * q.n.toNat) (q.atItem c 0 [] sg sp) V) :
    ∃ p', BatchRecord q c ds.take (Rsp.answer true q.n (sub32 q.occ q.n) ds []) q.n.toNat p' ∧
      Reaches s i ts (a + 5 * q.n.toNat) r p' (V.finished s.mask c (releasedSlot s.cap c) q.n.toNat) := by
  refine h.batch (fun k p a r hk hp reach => ?_) (batchRecord_atItem hn)
  obtain ⟨sg, sp, rfl⟩ := hp.inside hk
  have hslot := (Shared.finished_slot_next (done := releasedSlot s.cap c) hok (by omega)).trans (ready k hk)
  have single := singleItem_atItem (c := c) (o := ds.take k) (sg := sg) (sp := sp) hone hk
  have none_yet : q.op = 0x03#8 → ds.take k = [] := fun hget => by
    have hn1 := hone (.inr hget)
    rw [hn1] at hk
    rw [Nat.lt_one_iff.mp hk, List.take_zero]
  have shaken := reach.handshake_consumer hok rfl hop single none_yet hslot
  have taken : ds.take k ++ [ds.getD k 0] = ds.take (k + 1) := by
    rw [List.getD_eq_getElem _ _ (by omega), List.take_append_getElem]
  simp only [Port.atItem, taken] at shaken
  exact ⟨_, batchRecord_finishItem hk fun last => by rw [List.take_of_length_le (by omega)], shaken⟩

end run

end Sys2Proof.Machine
end

section
/-! PROOF. Whole operations of one port running alone, from the command presented to its answer (rules R111, R123, R124, R130,
R131, R140, R141), and a put followed by a get (rule R176). -/

namespace Sys2Proof.Machine

open Sys2Proof.Safety

/-! ### Slots that are ready -/

theorem slot_of_readyForWrite {sl : Slot} {pos : U32} (h : readyForWrite sl pos = true) : sl = ⟨pos, pos, sl.val⟩ := by
  obtain ⟨pseq, gseq, val⟩ := sl
  simpa [readyForWrite] using h

/-- A READABLE slot, field by field (rule R117). -/
theorem slot_of_readable {cap pos : U32} {sl : Slot} {v : Item} (h : slotState cap sl = .readable pos v) :
    sl = ⟨add32 pos cap, pos, some v⟩ := by
  obtain ⟨pseq, gseq, val⟩ := sl
  unfold slotState at h
  split at h
  · cases val <;> cases h
  · split at h
    · rename_i hlap
      cases val with
      | none => cases h
      | some d =>
        cases h
        have hp : pseq = add32 gseq cap := by rw [← hlap]; simp [sub32, add32]
        rw [hp]
    · cases h

/-! ### Admission -/

theorem ne_zero_of_pos {a : U32} (h : 1 ≤ a.toNat) : a ≠ 0#32 := by
  rintro rfl
  exact absurd h (by decide)


section admits

variable {cap occ n : U32} {j : Instr}

/-- PUT and GET are admitted for one position (rules R130, R140). -/
theorem Admits.single (h : Admits cap occ n j) (hop : j.opcode = 0x01#8 ∨ j.opcode = 0x03#8) : n = 1#32 := by
  cases j
  case put => exact h.1
  case get => exact h.1
  all_goals simp [Instr.opcode] at hop

theorem Admits.pos (h : Admits cap occ n j) : 1 ≤ n.toNat := by
  cases j
  case put => rw [h.1]; decide
  case putb => exact ne_zero_toNat h.2
  case get => rw [h.1]; decide
  case getb => exact ne_zero_toNat h.2
  all_goals exact h.elim

/-- No more positions are reserved than there are slots (rules R130, R131, R140, R141). -/
theorem Admits.le (h : Admits cap occ n j) (hocc : occ.toNat ≤ cap.toNat) : n.toNat ≤ cap.toNat := by
  cases j
  case put =>
    obtain ⟨rfl, hlt⟩ := h
    exact Nat.le_of_lt (lt_of_le_of_lt (Nat.le_add_left 1 _) hlt)
  case putb => rw [h.1, putbCount_toNat hocc]; omega
  case get =>
    obtain ⟨rfl, hne⟩ := h
    exact (ne_zero_toNat hne).trans hocc
  case getb => rw [h.1, getbCount_toNat]; omega
  all_goals exact h.elim

end admits

/-- With one position for PUT and GET, RESERVE asks for the count admitted (rule R118). -/
theorem Port.demand_eq {p : Port} (hop : producerOp p.op = true ∨ consumerOp p.op = true)
    (hone : p.op = 0x01#8 ∨ p.op = 0x03#8 → p.n = 1#32) : p.demand = p.n := by
  rw [producerOp_iff, consumerOp_iff] at hop
  rcases hop with (hop | hop) | (hop | hop)
  · rw [Port.demand_of_single (.inl hop), hone (.inl hop)]
  · exact Port.demand_of_batch (.inl hop)
  · rw [Port.demand_of_single (.inr hop), hone (.inr hop)]
  · exact Port.demand_of_batch (.inr hop)

/-! ### From the command presented to its answer -/

/-- Port `i` of a legal block (canonical slot array) is idle, and is presented command `j` with the items `lane`, and then
`cs`. -/
structure Presents (s : State) (i : Nat) (p : Port) (j : Instr) (lane : List Item) (cs : List Command) : Prop where
  legal : s.cfgErr = false
  capacity : capacityOk s.cap s.mask
  memory : Memory.wf s.cap s.slots = true
  port : s.ports[i]? = some p
  idle : p.pc = .idle
  presented : p.cmds = ⟨encode j, lane⟩ :: cs

/-- `t` is `s` after a batch of port `i` on the `m` positions after the cursor `c`: the port, its record now `p`, is idle with
the answer `r`, position `k` has left its slot as `done k`, and every other slot, the configuration and every other port
are as before. -/
structure BatchDone (s t : State) (i : Nat) (p : Port) (ts : List Turn) (cs : List Command) (r : Rsp) (c : U32)
    (done : Nat → Slot) (m : Nat) : Prop where
  sched : t.sched = ts
  port : t.ports[i]? = some p
  idle : p.pc = .idle
  cmds : p.cmds = cs
  rsp : p.rsp = r
  others : ∀ j, j ≠ i → t.ports[j]? = s.ports[j]?
  cap : t.cap = s.cap
  mask : t.mask = s.mask
  cfgErr : t.cfgErr = s.cfgErr
  memory : Memory.wf t.cap t.slots = true
  slots : ∀ k, k < m → slotOf t (positionAfter c k) = done k
  otherSlots : ∀ j, (∀ k, k < m → j ≠ slotIndex s.mask (positionAfter c k)) →
    readSlot t.cap t.slots j = readSlot s.cap s.slots j

section alone

variable {s : State} {i k m : Nat} {p p' : Port} {ts : List Turn} {cs : List Command} {j : Instr} {lane : List Item}
variable {r : Rsp} {c n : U32} {V : Shared} {done : Nat → Slot}

/-- A batch that is done, read off the state that it reaches. -/
theorem Reaches.batchDone (h : Reaches s i ts k 0 p (V.finished s.mask c done m)) (hok : capacityOk s.cap s.mask)
    (hm : m ≤ s.cap.toNat) (hV : V.slot = s.shared.slot) (hp : p.pc = .idle ∧ p.cmds = cs ∧ p.rsp = r) :
    ∃ t, run k s = .next t ∧ BatchDone s t i p ts cs r c done m ∧ t.putc = V.putc ∧ t.getc = V.getc := by
  obtain ⟨t, hrun, hsched, solo⟩ := h
  obtain ⟨hpc, hcmds, hrsp⟩ := hp
  refine ⟨t, hrun, ⟨hsched, solo.port, hpc, hcmds, hrsp, solo.others, solo.cap, solo.mask, solo.cfgErr, solo.memory,
    fun l hl => ?_, fun l hl => ?_⟩, solo.putc.trans Shared.finished_putc, solo.getc.trans Shared.finished_getc⟩
  · exact (solo.slotOf _).trans (Shared.finished_slot hok hm hl)
  · rw [solo.readSlot, Shared.finished_slot_other hl, hV]
    rfl

/-- The run starts where the command is presented. -/
theorem Presents.start (h : Presents s i p j lane cs) (hs : s.sched = List.replicate k (.port i) ++ ts) :
    Reaches s i ts 0 k p s.shared := ⟨s, rfl, hs, Solo.self h.memory h.port⟩

/-- The items that issue latches (rules R83, R91). -/
theorem Presents.latchedItems (h : Presents s i p j lane cs) : latchedItems j p.cmds = lane.take j.itemsDemanded := by
  rw [h.presented]; rfl

theorem Presents.cmds_tail (h : Presents s i p j lane cs) : p.cmds.tail = cs := by rw [h.presented]; rfl

/-- A producer alone, from the command to the answer: its items stand published in the positions after `PUTC` (rules R130,
R131). -/
theorem Presents.run_producer (h : Presents s i p j lane cs) (hj : producerOp j.opcode = true)
    (hocc : (sub32 s.putc s.getc).toNat ≤ s.cap.toNat) (hadm : Admits s.cap (sub32 s.putc s.getc) n j)
    (ready : ∀ k, k < n.toNat →
      readyForWrite (slotOf s (positionAfter s.putc k)) (positionAfter s.putc k) = true)
    (hs : s.sched = List.replicate (4 + 4 * n.toNat) (.port i) ++ ts) :
    ∃ t p', run (4 + 4 * n.toNat) s = .next t ∧
      BatchDone s t i p' ts cs (Rsp.answer true n (add32 (sub32 s.putc s.getc) n) [] []) s.putc
        (publishedSlot s.cap s.putc (lane.take j.itemsDemanded)) n.toNat ∧
      t.putc = add32 s.putc n ∧ t.getc = s.getc := by
  have turns : 4 + 4 * n.toNat = 0 + 4 * n.toNat + 1 + 3 := by omega
  have hle := hadm.le hocc
  have hpos := hadm.pos
  rw [← est_of_le hocc] at hadm ⊢
  rw [turns] at hs
  have admitted := (h.start hs).to_reserve h.legal h.idle h.presented (Proofs.decodeOfEncode j) hadm
  have reserved := admitted.reservePut rfl hj rfl
  rw [Port.reserved_eq_atItem, Port.demand_eq (.inl hj) hadm.single] at reserved
  have empty : ∀ k, k < n.toNat → ∃ v, s.shared.slot (slotIndex s.mask (positionAfter s.putc k)) =
      ⟨positionAfter s.putc k, positionAfter s.putc k, v⟩ := fun k hk => ⟨_, slot_of_readyForWrite (ready k hk)⟩
  obtain ⟨p', record, reached⟩ := reserved.batch_producer (q := p.admitted j s.cap s.shared n)
    (V := { s.shared with putc := add32 s.putc n }) h.capacity hadm.single hpos hle hj empty
  rw [show (p.admitted j s.cap s.shared n).inItems = lane.take j.itemsDemanded from h.latchedItems] at reached
  obtain ⟨idle, cmds, rsp⟩ := record.answered rfl
  obtain ⟨t, hrun, hdone, hput, hget⟩ := reached.batchDone h.capacity hle rfl
    ⟨idle, cmds.trans h.cmds_tail, rsp⟩
  exact ⟨t, p', hrun, hdone, hput, hget⟩

/-- A consumer alone, from the command to the answer: the items of the positions after `GETC` are in the response, and their
slots are empty and WRITABLE for the next lap (rules R140, R141). -/
theorem Presents.run_consumer {ds : List Item} (h : Presents s i p j lane cs) (hj : consumerOp j.opcode = true)
    (hocc : (sub32 s.putc s.getc).toNat ≤ s.cap.toNat) (hadm : Admits s.cap (sub32 s.putc s.getc) n j)
    (hds : ds.length = n.toNat)
    (ready : ∀ k, k < n.toNat → slotOf s (positionAfter s.getc k) =
      ⟨add32 (positionAfter s.getc k) s.cap, positionAfter s.getc k, some (ds.getD k 0)⟩)
    (hs : s.sched = List.replicate (4 + 5 * n.toNat) (.port i) ++ ts) :
    ∃ t p', run (4 + 5 * n.toNat) s = .next t ∧
      BatchDone s t i p' ts cs (Rsp.answer true n (sub32 (sub32 s.putc s.getc) n) ds []) s.getc
        (releasedSlot s.cap s.getc) n.toNat ∧
      t.putc = s.putc ∧ t.getc = add32 s.getc n := by
  have turns : 4 + 5 * n.toNat = 0 + 5 * n.toNat + 1 + 3 := by omega
  have hle := hadm.le hocc
  have hpos := hadm.pos
  rw [← est_of_le hocc] at hadm ⊢
  rw [turns] at hs
  have admitted := (h.start hs).to_reserve h.legal h.idle h.presented (Proofs.decodeOfEncode j) hadm
  have reserved := admitted.reserveGet rfl hj rfl
  rw [Port.reserved_eq_atItem, Port.demand_eq (.inr hj) hadm.single] at reserved
  obtain ⟨p', record, reached⟩ := reserved.batch_consumer (q := p.admitted j s.cap s.shared n)
    (V := { s.shared with getc := add32 s.getc n }) h.capacity hadm.single hpos hle hj hds ready
  obtain ⟨idle, cmds, rsp⟩ := record.answered rfl
  obtain ⟨t, hrun, hdone, hput, hget⟩ := reached.batchDone h.capacity hle rfl ⟨idle, cmds.trans h.cmds_tail, rsp⟩
  exact ⟨t, p', hrun, hdone, hput, hget⟩

end alone

/-! ### A put and then a get (rules R122, R176) -/

/-- Two runs, one after the other. -/
theorem run_add {s t u : State} {a b : Nat} (h : run a s = .next t) (h' : run b t = .next u) :
    run (a + b) s = .next u := by
  induction a generalizing s with
  | zero => cases h; rwa [Nat.zero_add]
  | succ a ih =>
    rw [Nat.succ_add]
    rw [run] at h ⊢
    cases hs : step s with
    | next s' => rw [hs] at h; exact ih h
    | fault f => rw [hs] at h; cases h
    | refused f => rw [hs] at h; cases h

section round

variable {s t u : State} {i j : Nat} {p q : Port} {v : Item} {cs cs' : List Command} {ts ts' : List Turn} {r r' : Rsp}

/-- On an empty block at rest a PUT stores its item in the next position. -/
theorem quiet_put (h : Presents s i p .put [v] cs) (hq : quiet s) (h2 : 2 ≤ s.cap.toNat)
    (hs : s.sched = List.replicate 8 (.port i) ++ ts) :
    ∃ t p', run 8 s = .next t ∧ BatchDone s t i p' ts cs ⟨true, true, false, 1#32, 1#32, [], []⟩ s.putc
      (publishedSlot s.cap s.putc [v]) 1 ∧ t.putc = add32 s.putc 1#32 ∧ t.getc = s.putc := by
  obtain ⟨hcursors, hslots⟩ := hq
  have empty : sub32 s.putc s.getc = 0#32 := by rw [hcursors]; exact BitVec.sub_self _
  have ready : ∀ k, k < (1#32 : U32).toNat →
      readyForWrite (slotOf s (positionAfter s.putc k)) (positionAfter s.putc k) = true := fun k hk => by
    rw [hslots k (Nat.lt_of_lt_of_le hk (Nat.le_of_succ_le h2))]
    simp [readyForWrite]
  obtain ⟨t, p', hrun, hdone, hput, hget⟩ := h.run_producer (n := 1#32) rfl (by rw [empty]; exact Nat.zero_le _)
    ⟨rfl, by rw [empty]; exact h2⟩ ready hs
  rw [empty] at hdone
  exact ⟨t, p', hrun, hdone, hput, hget.trans hcursors.symm⟩

/-- A put and a get of the next position of an empty block at rest leave it so, one position further on (rules R116,
R117). -/
theorem quiet_of_round (hok : capacityOk s.cap s.mask) (hq : quiet s)
    (put : BatchDone s t i p ts cs r s.putc (publishedSlot s.cap s.putc [v]) 1)
    (get : BatchDone t u j q ts' cs' r' s.putc (releasedSlot s.cap s.putc) 1)
    (hput : u.putc = add32 s.putc 1#32) (hget : u.getc = add32 s.putc 1#32) : quiet u := by
  have hcap : u.cap = s.cap := get.cap.trans put.cap
  have hmask : u.mask = s.mask := get.mask.trans put.mask
  refine ⟨hput.trans hget.symm, fun k hk => ?_⟩
  rw [hcap] at hk
  have hpos : positionAfter u.putc k = positionAfter s.putc (k + 1) := by
    rw [hput, ← positionAfter_succ]
    simp only [positionAfter, add32]
    ac_rfl
  rw [hpos]
  rcases Nat.lt_or_ge (k + 1) s.cap.toNat with hlt | hge
  · have apart : ∀ l, l < 1 → slotIndex s.mask (positionAfter s.putc (k + 1)) ≠
        slotIndex s.mask (positionAfter s.putc l) := fun l hl =>
      (slotIndex_positionAfter_ne hok (by omega) (by omega)).symm
    have untouched : slotOf u (positionAfter s.putc (k + 1)) = slotOf s (positionAfter s.putc (k + 1)) := by
      rw [slotOf, hmask, get.otherSlots _ (by rwa [put.mask]), put.otherSlots _ apart, slotOf]
    exact untouched.trans (hq.2 (k + 1) hlt)
  · have lap : positionAfter s.putc (k + 1) = add32 (positionAfter s.putc 0) s.cap := by
      have hcount : BitVec.ofNat 32 (k + 1) = s.cap := by
        rw [show k + 1 = s.cap.toNat by omega, BitVec.ofNat_toNat, BitVec.setWidth_eq]
      rw [positionAfter, hcount, positionAfter_zero]
    have same : slotOf u (add32 (positionAfter s.putc 0) s.cap) = slotOf u (positionAfter s.putc 0) := by
      rw [slotOf, hmask, slotIndex_add_cap hok, ← hmask, slotOf]
    rw [lap, same, get.slots 0 Nat.one_pos]
    rfl

/-- The GET that follows hands the item back, and the block is empty and at rest again. -/
theorem quiet_get (hc : s.cfgErr = false) (hok : capacityOk s.cap s.mask) (hq : quiet s)
    (put : BatchDone s t i p (List.replicate 9 (.port j) ++ ts) cs r s.putc (publishedSlot s.cap s.putc [v]) 1)
    (hput : t.putc = add32 s.putc 1#32) (hget : t.getc = s.putc) (hj : t.ports[j]? = some q) (hpc : q.pc = .idle)
    (hcmds : q.cmds = asmGet :: cs') :
    ∃ u q', run 9 t = .next u ∧ BatchDone t u j q' ts cs' ⟨true, true, false, 1#32, 0#32, [v], []⟩ s.putc
      (releasedSlot s.cap s.putc) 1 ∧ u.putc = add32 s.putc 1#32 ∧ quiet u := by
  have h : Presents t j q .get [] cs' :=
    ⟨put.cfgErr.trans hc, by rwa [put.cap, put.mask], put.memory, hj, hpc, hcmds⟩
  have one : sub32 t.putc t.getc = 1#32 := by rw [hput, hget, sub32_add32_left]
  have hpos : 1 ≤ t.cap.toNat := capacity_pos h.capacity
  have ready : ∀ k, k < (1#32 : U32).toNat → slotOf t (positionAfter t.getc k) =
      ⟨add32 (positionAfter t.getc k) t.cap, positionAfter t.getc k, some ([v].getD k 0)⟩ := fun k hk => by
    rw [hget, put.slots k hk, put.cap]
    rfl
  obtain ⟨u, q', hrun, hdone, hput', hget'⟩ := h.run_consumer (n := 1#32) (ds := [v]) rfl (by rw [one]; exact hpos)
    ⟨rfl, by rw [one]; decide⟩ rfl ready put.sched
  rw [one, hget, put.cap] at hdone
  have hput' := hput'.trans hput
  exact ⟨u, q', hrun, hdone, hput', quiet_of_round hok hq put hdone hput' (by rw [hget', hget])⟩

end round

end Sys2Proof.Machine
end

section
/-! PROOF. Whole operations of one port running alone, settled (rules R111, R117, R122 to R125, R130, R131, R140, R141,
R176). -/

namespace Sys2Proof.Proofs

open Sys2Proof.Machine Sys2Proof.Safety

/-- Settles O23: the run of a producer for one position. -/
theorem putAloneCompletes : Obligations.PutAloneCompletes := by
  intro s i p v cs ts hc hok hm hp hpc hcmds hs hroom hready
  have first := positionAfter_zero s.putc
  rw [← first] at hready ⊢
  have h : Presents s i p .put [v] cs := ⟨hc, hok, hm, hp, hpc, hcmds⟩
  obtain ⟨t, p', hrun, hdone, hput, hget⟩ := h.run_producer (n := 1#32) rfl (by omega) ⟨rfl, hroom⟩
    (fun k hk => by rwa [Nat.lt_one_iff.mp hk]) hs
  refine ⟨t, p', hrun, hdone.port, hdone.idle, hdone.cmds, hdone.rsp, hput.trans first.symm, hget, hdone.cap, hdone.mask,
    hdone.cfgErr.trans hc, hdone.sched, hdone.others, hdone.slots 0 Nat.one_pos, fun j hj => ?_⟩
  exact hdone.otherSlots j fun k hk => by rwa [Nat.lt_one_iff.mp hk]

/-- Settles O24: the run of a consumer for one position. -/
theorem getAloneCompletes : Obligations.GetAloneCompletes := by
  intro s i p v cs ts hc hok hm hp hpc hcmds hs hpos hocc hstate
  have first := positionAfter_zero s.getc
  rw [← first] at hstate ⊢
  have h : Presents s i p .get [] cs := ⟨hc, hok, hm, hp, hpc, hcmds⟩
  have hslot := slot_of_readable hstate
  obtain ⟨t, p', hrun, hdone, hput, hget⟩ := h.run_consumer (n := 1#32) (ds := [v]) rfl hocc ⟨rfl, ne_zero_of_pos hpos⟩ rfl
    (fun k hk => by rw [Nat.lt_one_iff.mp hk]; exact hslot) hs
  refine ⟨t, p', hrun, hdone.port, hdone.idle, hdone.cmds, hdone.rsp, hget.trans first.symm, hput, hdone.cap, hdone.mask,
    hdone.cfgErr.trans hc, hdone.sched, hdone.others, ?_, fun j hj => ?_⟩
  · rw [hdone.slots 0 Nat.one_pos, slotState_of_eq _ rfl]
    rfl
  · exact hdone.otherSlots j fun k hk => by rwa [Nat.lt_one_iff.mp hk]

/-- Settles O25: the run of a producer for the items that fit. -/
theorem putbAloneCompletes : Obligations.PutbAloneCompletes := by
  intro s i p vs m cs ts hc hok hm hp hpc hcmds hlen hocc hcount hpos hs hready
  have h : Presents s i p (.putb (BitVec.ofNat 32 vs.length)) vs cs := ⟨hc, hok, hm, hp, hpc, hcmds⟩
  have harg : (BitVec.ofNat 32 vs.length).toNat = vs.length := by rw [BitVec.toNat_ofNat, Nat.mod_eq_of_lt hlen]
  have hn : (BitVec.ofNat 32 m).toNat = m := by rw [BitVec.toNat_ofNat, Nat.mod_eq_of_lt (by omega)]
  have hadm : Admits s.cap (sub32 s.putc s.getc) (BitVec.ofNat 32 m) (.putb (BitVec.ofNat 32 vs.length)) :=
    ⟨eq_putbCount hocc (by rw [hn, harg, hcount]), ne_zero_of_pos (by rw [hn]; exact hpos)⟩
  obtain ⟨t, p', hrun, hdone, hput, hget⟩ := h.run_producer rfl hocc hadm (by rwa [hn]) (by rwa [hn])
  rw [hn] at hrun hdone
  refine ⟨t, p', hrun, hdone.port, hdone.idle, hdone.cmds, hdone.rsp, hput, hget, hdone.cap, hdone.mask,
    hdone.cfgErr.trans hc, hdone.sched, hdone.others, fun k hk => ?_, hdone.otherSlots⟩
  rw [hdone.slots k hk, publishedSlot, Instr.itemsDemanded, harg, List.take_length, itemAt]

/-- Settles O26: the run of a consumer for the items that are there. -/
theorem getbAloneCompletes : Obligations.GetbAloneCompletes := by
  intro s i p q m ds cs ts hc hok hm hp hpc hcmds hocc hcount hpos hds hs hready
  have h : Presents s i p (.getb q) [] cs := ⟨hc, hok, hm, hp, hpc, hcmds⟩
  have hn : (BitVec.ofNat 32 m).toNat = m := by
    rw [BitVec.toNat_ofNat, Nat.mod_eq_of_lt (by have := q.isLt; omega)]
  have hadm : Admits s.cap (sub32 s.putc s.getc) (BitVec.ofNat 32 m) (.getb q) :=
    ⟨eq_getbCount (by rw [hn, hcount]), ne_zero_of_pos (by rw [hn]; exact hpos)⟩
  obtain ⟨t, p', hrun, hdone, hput, hget⟩ := h.run_consumer rfl hocc hadm (by rw [hn, hds]) (by rwa [hn])
    (by rwa [hn])
  rw [hn] at hrun hdone
  exact ⟨t, p', hrun, hdone.port, hdone.idle, hdone.cmds, hdone.rsp, hget, hput, hdone.cap, hdone.mask,
    hdone.cfgErr.trans hc, hdone.sched, hdone.others, hdone.slots, hdone.otherSlots⟩

/-- Settles O28: the run of the PUT, and on the state it reaches the run of the GET. -/
theorem putThenGetRoundTrip : Obligations.PutThenGetRoundTrip := by
  intro s i p v cs ts hc hok h2 hm hq hp hpc
  refine ⟨fun j q cs' hij hj hqpc hcmds hqcmds hs => ?_, fun hcmds hs => ?_⟩
  · have h : Presents s i p .put [v] cs := ⟨hc, hok, hm, hp, hpc, hcmds⟩
    obtain ⟨t, p', hrun, put, hput, hget⟩ := quiet_put h hq h2 hs
    obtain ⟨u, q', hrun', get, hput', hquiet⟩ := quiet_get hc hok hq put hput hget
      ((put.others j hij.symm).trans hj) hqpc hqcmds
    exact ⟨u, p', q', run_add hrun hrun', (get.others i hij).trans put.port, get.port, put.rsp, get.rsp, put.idle,
      get.idle, put.cmds, get.cmds, get.sched, hput', get.cap.trans put.cap, get.mask.trans put.mask,
      get.cfgErr.trans (put.cfgErr.trans hc), get.memory, hquiet⟩
  · have h : Presents s i p .put [v] (asmGet :: cs) := ⟨hc, hok, hm, hp, hpc, hcmds⟩
    obtain ⟨t, p₁, hrun, put, hput, hget⟩ := quiet_put h hq h2 hs
    obtain ⟨u, p', hrun', get, hput', hquiet⟩ := quiet_get hc hok hq put hput hget put.port put.idle put.cmds
    exact ⟨t, p₁, u, p', hrun, put.port, put.rsp, hrun', get.port, get.rsp, get.idle, get.cmds, get.sched, hput',
      get.cap.trans put.cap, get.mask.trans put.mask, get.cfgErr.trans (put.cfgErr.trans hc), get.memory, hquiet⟩

end Sys2Proof.Proofs
end

section
/-! PROOF. A PUT that finds the block full, and the block that always is: with `CAP = 1` the slot held back leaves none to
admit (rules R130(a), R130(b), R190). -/

namespace Sys2Proof.Machine

open Sys2Proof.Safety

/-- SNAP_P of a PUT on a full block: turned away with the estimate (rules R130(a), R162). -/
theorem exec_put_snapP_full {s : State} {p : Port} (hp : s.activePort? = some p) (hpc : p.pc = .snapP)
    (hop : p.op = 0x01#8) (full : s.cap.toNat - 1 ≤ (est s.cap p.gs s.putc).toNat) :
    exec .put s = .next (s.setPort ((p.snapshot s).respond (Rsp.rejected (est s.cap p.gs s.putc)))) :=
  (exec_put_at hp hpc (by decide) hop).trans (putSnapP_full full)

/-- A PUT presented on a block that is full on its cursors: issue, the two snapshots, and the answer, with nothing shared
changed (rules R91, R119, R130(a), R162). -/
theorem run_put_full {s : State} {i : Nat} {p : Port} {v : Item} {cs : List Command} {ts : List Turn}
    (hs : s.sched = .port i :: .port i :: .port i :: ts) (hp : s.ports[i]? = some p) (hc : s.cfgErr = false)
    (hpc : p.pc = .idle) (hcmds : p.cmds = asmPut v :: cs)
    (full : s.cap.toNat - 1 ≤ (est s.cap s.getc s.putc).toNat) :
    ∃ t p', run 3 s = .next t ∧ QueryTurn s t i p' ts ∧ p'.pc = .idle ∧
      p'.rsp = Rsp.rejected (est s.cap s.getc s.putc) := by
  obtain ⟨t, q, run₂, turn₂, hop, harg, hq, hgs⟩ :=
    run_to_snapP hs hp hc hpc hcmds (Proofs.decodeOfEncode .put) (by decide)
  obtain ⟨hcap, -, -, hput, -, -⟩ := turn₂.shared
  have estimate : est t.cap q.gs t.putc = est s.cap s.getc s.putc := by rw [hcap, hgs, hput]
  have hact : (turnState t i).activePort? = some q := by simpa using turn₂.port
  have full₂ : t.cap.toNat - 1 ≤ (est t.cap q.gs t.putc).toNat := by rwa [estimate, hcap]
  have rejected := exec_put_snapP_full hact hq hop (by simpa using full₂)
  obtain ⟨t', step₃, turn₃⟩ := queryTurn_exec turn₂.sched turn₂.port (by simp [hq]) hop harg rejected
  refine ⟨t', _, run_succ run₂ step₃, ⟨turn₃.sched, turn₃.port, sharedSame_trans turn₂.shared turn₃.shared⟩, rfl, ?_⟩
  exact congrArg Rsp.rejected (by simpa using estimate)

end Sys2Proof.Machine

namespace Sys2Proof.Proofs

open Sys2Proof.Machine Sys2Proof.Safety

/-- Settles O32: with `CAP = 1` the threshold of FULL is 0, so that every estimate reaches it. -/
theorem oneSlotBlockRejectsPut : Obligations.OneSlotBlockRejectsPut := by
  intro s i p v cs ts hc hcap hp hpc hcmds hs
  have full : s.cap.toNat - 1 ≤ (est s.cap s.getc s.putc).toNat := by
    have threshold : s.cap.toNat - 1 = 0 := by rw [hcap]; rfl
    rw [threshold]
    exact Nat.zero_le _
  obtain ⟨t, p', hrun, turn, idle, rsp⟩ := run_put_full hs hp hc hpc hcmds full
  rw [hcap] at rsp
  exact ⟨t, p', hrun, turn.port, idle, turn.shared, rsp⟩

end Sys2Proof.Proofs
end

section
/-! PROOF. The one step of CAP, settled (rule R151). -/

namespace Sys2Proof.Proofs

open Sys2Proof.Machine

/-- Settles O20: CAPQ is the only phase of CAP after issue, and its step is the answer. -/
theorem capFollowsItsStep : Obligations.CapFollowsItsStep := fun _ _ hp hop hpc => exec_cap_capq hp hpc hop

end Sys2Proof.Proofs
end

section
/-! PROOF. A command turned away at SNAP_P or RESERVE, and the turns that no port takes (rules R67, R161, R162, R172). -/

namespace Sys2Proof.Machine

open Sys2Proof.Safety

/-- A reset event has a next state in every state (rule R180). -/
theorem step_of_reset {s : State} {req : U32} (h : nextTurn s = .reset req) :
    step s = .next (resetEvent req (afterTurn s)) := by
  simp [step, h]

/-- A turn of a port that does not exist is refused (rule R172; notes/assumptions/14.md). -/
theorem step_of_noPort {s : State} {i : Nat} (hn : nextTurn s = .port i) (hp : s.ports[i]? = none) :
    step s = .refused (.noSuchPort i) := by
  simp [step_of_port hn, stepPort, fetch, hp]

/-- The only moves from SNAP_P or RESERVE that answer with `OK = 0` are the rejections: they replace the port's record and
nothing else, and the response is that of rule R162. -/
theorem portMove_turnedAway {s t : State} {p : Port} (h : PortMove s p t) (hpc : p.pc = .snapP ∨ p.pc = .reserve) :
    ∃ p', t.ports = s.ports.set s.active p' ∧
      (p'.pc = .idle → p'.rsp.ok = false → t = s.setPort p' ∧ p'.rsp = Rsp.rejected p'.occ) := by
  cases h
  case rejected => exact ⟨_, rfl, fun _ _ => ⟨rfl, rfl⟩⟩
  case rejectedBatch => exact ⟨_, rfl, fun _ _ => ⟨rfl, rfl⟩⟩
  case contended => exact ⟨_, rfl, fun _ _ => ⟨rfl, rfl⟩⟩
  case answeredOcc => exact ⟨_, rfl, fun _ answered => nomatch answered⟩
  case answeredStat => exact ⟨_, rfl, fun _ answered => nomatch answered⟩
  case admitted => exact ⟨_, rfl, fun idle => nomatch idle⟩
  case reservedPut => exact ⟨_, rfl, fun idle => nomatch idle⟩
  case reservedGet => exact ⟨_, rfl, fun idle => nomatch idle⟩
  all_goals simp [*] at hpc

end Sys2Proof.Machine

namespace Sys2Proof.Proofs

open Sys2Proof.Machine Sys2Proof.Safety

/-- Settles O49: a reset and a turn of no port answer no fault, and a turn of an existing port is a next state (O50). -/
theorem protocolNeverFaults : Obligations.ProtocolNeverFaults := by
  intro s hs f hf
  cases hn : nextTurn s with
  | reset req => cases (step_of_reset hn).symm.trans hf
  | port i =>
    cases hp : s.ports[i]? with
    | none => cases (step_of_noPort hn hp).symm.trans hf
    | some p =>
      obtain ⟨t, ht⟩ := (everyTurnHasAStep s i p hn hp).2 hs
      cases ht.symm.trans hf

/-- Settles O31: the step is one of the rejections, which replace their port's record only. -/
theorem rejectionsChangeNothing : Obligations.RejectionsChangeNothing := by
  intro s t j p p' hp h hp' hpc idle notOk
  obtain ⟨hm, -⟩ := exec_portMove hp h
  have hrest := portMove_restSame hm
  obtain ⟨q, hq, turnedAway⟩ := portMove_turnedAway hm hpc
  obtain rfl := eq_of_ports_set hp hq hp'
  obtain ⟨rfl, hrsp⟩ := turnedAway idle notOk
  exact ⟨⟨rfl, rfl, rfl, rfl, rfl, fun _ => rfl⟩, hrest, hrsp⟩

end Sys2Proof.Proofs
end

section
/-! PROOF. A reset event, settled (rules R180, R182; notes/assumptions/16.md). -/

namespace Sys2Proof.Machine

open Sys2Proof.Safety

/-- The shared space after a reset event is that of a fresh reset, with any number of ports (rules R40, R182). -/
theorem sharedSame_resetEvent (req : U32) (n : Nat) (s : State) :
    sharedSame (State.resetWith req n) (resetEvent req s) :=
  ⟨rfl, rfl, rfl, rfl, rfl, fun _ => rfl⟩

/-- Of a port's record a reset event keeps the words still to present, and nothing else (rule R182;
notes/assumptions/16.md). -/
theorem resetEvent_port {s : State} {i : Nat} {p : Port} (hp : s.ports[i]? = some p) (req : U32) :
    (resetEvent req s).ports[i]? = some { Port.reset with cmds := p.cmds } := by
  simp [hp]

end Sys2Proof.Machine

namespace Sys2Proof.Proofs

open Sys2Proof.Machine Sys2Proof.Safety

/-- Settles O14: the turn is a reset event on the state whose schedule has moved on by that turn. -/
theorem resetAbandonsEverything : Obligations.ResetAbandonsEverything := by
  intro s r ts hs
  have hstep := step_of_reset (nextTurn_of_sched hs)
  refine ⟨_, hstep, sharedSame_resetEvent r _ _, by simp, by simp [afterTurn, hs], fun i p p' hp hp' => ?_⟩
  have after := resetEvent_port (s := afterTurn s) (by simpa using hp) r
  obtain rfl := Option.some.inj (after.symm.trans hp')
  exact ⟨rfl, rfl, rfl⟩

end Sys2Proof.Proofs
end

section
/-! PROOF. The model's own choices, settled: the canonical form of the slot array (notes/assumptions/8.md), and the word that
`State.withFetchWord` places (notes/assumptions/10.md, 20.md). -/

namespace Sys2Proof.Machine

open Sys2Proof.Safety

/-- A move writes at most one slot, which is inside the array, so the slot array stays canonical. -/
theorem portMove_memory_wf {s t : State} {p : Port} (hs : Memory.wf s.cap s.slots = true) (h : PortMove s p t) :
    Memory.wf t.cap t.slots = true := by
  rw [(portMove_config h).1]
  rcases portMove_slots h with ⟨-, unchanged⟩ | ⟨v, -, inside, written⟩
  · rwa [unchanged]
  · rw [written]; exact writeSlot_wf v inside hs

/-- Every number is a 64-bit word of the table once its higher bits are dropped (rule R80). -/
theorem decodeTableWord_64 (w : Nat) : decodeTableWord 64 w = decode (BitVec.ofNat 64 (w % 2 ^ 64)) :=
  if_pos (Nat.mod_lt w (Nat.two_pow_pos 64))

/-- The state in which the word stands first on port 0 and port 0 has the next turn (notes/assumptions/20.md). -/
theorem withFetchWord_of_ports {s : State} {p : Port} {ps : List Port} (hs : s.ports = p :: ps) (nbits w : Nat) :
    s.withFetchWord nbits w =
      { s with
        ports := { p with pc := .idle, cmds := ⟨BitVec.ofNat 64 (w % 2 ^ nbits), []⟩ :: p.cmds } :: ps
        sched := .port 0 :: s.sched } := by
  simp [State.withFetchWord, placeWord, hs]

end Sys2Proof.Machine

namespace Sys2Proof.Proofs

open Sys2Proof.Machine Sys2Proof.Safety

/-- Settles O40: a reset leaves an empty list, a waiting turn the same one, and a move writes inside the array. -/
theorem memoryFormKept : Obligations.MemoryFormKept := by
  intro s t hs h
  rcases step_next h with ⟨req, -, rfl⟩ | ⟨i, p, -, -, -, -, rfl⟩ | ⟨i, p, -, -, hm⟩
  · exact wf_nil
  · simpa using hs
  · exact portMove_memory_wf (by simpa using hs) hm

/-- Settles O7: the placed word is presented on an idle port 0 whose turn is scheduled. -/
theorem fetchWordRunsNext : Obligations.FetchWordRunsNext := by
  intro s p ps w j hs hd
  have placed := withFetchWord_of_ports hs 64 w
  have scheduled : (s.withFetchWord 64 w).sched = .port 0 :: s.sched := by rw [placed]
  rw [step_of_port (nextTurn_of_sched scheduled), turnState_of_sched scheduled, placed]
  exact stepPort_presented rfl rfl rfl ((decodeTableWord_64 w).symm.trans hd)

end Sys2Proof.Proofs
end
